-- ==== Sys2Proof/Word.lean ====
section
/-! DEFINITION. The two widths of the core (00_scope.md R4, R6): a byte and a 16-bit word. -/

namespace Sys2Proof

/-- An 8-bit unsigned value: a general register, FLAGS, a memory cell, an opcode or operand byte (R6). -/
abbrev Byte := BitVec 8

/-- A 16-bit unsigned value: `pc`, `sp`, an address (R6). -/
abbrev Word := BitVec 16

end Sys2Proof
end

