-- ==== Sys2Proof/Machine/Bits.lean ====
section
/-! DEFINITION. The byte-order helpers of the core (00_scope.md R7): a word from its two bytes, and back. -/

namespace Sys2Proof.Machine

/-- `(hi << 8) | lo`: bits 15:8 are `hi` and bits 7:0 are `lo` (R7). -/
def wordOfBytes (hi lo : Byte) : Word := hi ++ lo

/-- `w[15:8]` (R6). -/
def hiByte (w : Word) : Byte := w.extractLsb' 8 8

/-- `w[7:0]` (R6). -/
def loByte (w : Word) : Byte := w.extractLsb' 0 8

end Sys2Proof.Machine
end

