-- ==== Sys2Proof/Syntax.lean ====
section
/-! DEFINITION. The canonical ISA as syntax: one constructor for each of the 33 rows of
spec/opcode_table.json (30_encoding.md R65). -/

namespace Sys2Proof

/-- The general registers (10_state.md R20). -/
inductive Reg where
  | A
  | B
  | C
  | D
  deriving DecidableEq, Repr

/-- An instruction with its operands (30_encoding.md R61). A register operand is the operand BYTE as it
stands in memory (R62): 0..3 name A..D and 4..255 are no register, which the machine reports by
`FatalRegIndex` when the instruction executes (60_exceptions.md R161). `rd` is the source's reg_to and
`rs` its reg_from (00_scope.md R10). An address operand is the 16-bit word of R64. -/
inductive Instr where
  | nop
  | lda (addr : Word)
  | ldb (addr : Word)
  | ldi (imm8 : Byte)
  | inc
  | dec
  | add (rd rs : Byte)
  | sub (rd rs : Byte)
  | mul (rd rs : Byte)
  | sta (addr : Word)
  | stb (addr : Word)
  | mov (rd rs : Byte)
  | cmp (rd rs : Byte)
  | jmp (addr : Word)
  | jz (addr : Word)
  | jnz (addr : Word)
  | jc (addr : Word)
  | jnc (addr : Word)
  | je (addr : Word)
  | jne (addr : Word)
  | jl (addr : Word)
  | jg (addr : Word)
  | jb (addr : Word)
  | ja (addr : Word)
  | and (rd rs : Byte)
  | or (rd rs : Byte)
  | xor (rd rs : Byte)
  | not (r : Byte)
  | push (r : Byte)
  | pop (r : Byte)
  | call (addr : Word)
  | ret
  | hlt
  deriving DecidableEq, Repr

end Sys2Proof
end

