-- ==== Sys2Proof/Decode.lean ====
section
/-! DEFINITION. The decoder, total on any bytes (30_encoding.md R61 to R69), then the encoder written from the
same tables. -/

namespace Sys2Proof

open Sys2Proof.Machine (wordOfBytes hiByte loByte)

/-- What an opcode byte makes of its operand bytes: the five formats of R61. -/
inductive Form where
  /-- No operand. -/
  | n (i : Instr)
  /-- One immediate byte. -/
  | i (mk : Byte → Instr)
  /-- One register byte. -/
  | r (mk : Byte → Instr)
  /-- Two register bytes, reg_to then reg_from. -/
  | rr (mk : Byte → Byte → Instr)
  /-- A big-endian 16-bit address. -/
  | a (mk : Word → Instr)

/-- The opcode map of R65. `none` is an opcode byte "not in the table" (R67: 0x20..0xFE). -/
def opcodeForm (op : Byte) : Option Form :=
  match op with
  | 0x00#8 => some (.n .nop)
  | 0x01#8 => some (.a .lda)
  | 0x02#8 => some (.a .ldb)
  | 0x03#8 => some (.i .ldi)
  | 0x04#8 => some (.n .inc)
  | 0x05#8 => some (.n .dec)
  | 0x06#8 => some (.rr .add)
  | 0x07#8 => some (.rr .sub)
  | 0x08#8 => some (.rr .mul)
  | 0x09#8 => some (.a .sta)
  | 0x0A#8 => some (.a .stb)
  | 0x0B#8 => some (.rr .mov)
  | 0x0C#8 => some (.rr .cmp)
  | 0x0D#8 => some (.a .jmp)
  | 0x0E#8 => some (.a .jz)
  | 0x0F#8 => some (.a .jnz)
  | 0x10#8 => some (.a .jc)
  | 0x11#8 => some (.a .jnc)
  | 0x12#8 => some (.a .je)
  | 0x13#8 => some (.a .jne)
  | 0x14#8 => some (.a .jl)
  | 0x15#8 => some (.a .jg)
  | 0x16#8 => some (.a .jb)
  | 0x17#8 => some (.a .ja)
  | 0x18#8 => some (.rr .and)
  | 0x19#8 => some (.rr .or)
  | 0x1A#8 => some (.rr .xor)
  | 0x1B#8 => some (.r .not)
  | 0x1C#8 => some (.r .push)
  | 0x1D#8 => some (.r .pop)
  | 0x1E#8 => some (.a .call)
  | 0x1F#8 => some (.n .ret)
  | 0xFF#8 => some (.n .hlt)
  | _ => none

/-- How many bytes an instruction of the format has (R61). -/
def formLength : Form → Nat
  | .n _ => 1
  | .i _ => 2
  | .r _ => 2
  | .rr _ => 3
  | .a _ => 3

/-- `Length(op)` of R66; `none` for an undefined opcode, which has no length. -/
def opcodeLength (op : Byte) : Option Nat := (opcodeForm op).map formLength

/-- Why bytes are no instruction. -/
inductive DecodeError where
  /-- There is no byte to read an opcode from. -/
  | noBytes
  /-- The opcode byte is not in the map (R67); in the machine it is the implicit halt (R152). -/
  | undefinedOpcode (op : Byte)
  /-- The bytes end before the operands of the opcode do; the machine's fetch never runs out (R47). -/
  | missingOperands (op : Byte)
  deriving DecidableEq, Repr

/-- The decoder's answer. -/
inductive Decoded where
  | instr (i : Instr) (rest : List Byte)
  | rejected (e : DecodeError)
  deriving DecidableEq, Repr

/-- Decode the instruction at the head of a byte sequence (R66): the opcode byte, then the operand bytes its
format has, in order; the answer keeps the bytes after the instruction. -/
def decode : List Byte → Decoded
  | [] => .rejected .noBytes
  | op :: rest =>
    match opcodeForm op with
    | none => .rejected (.undefinedOpcode op)
    | some (.n i) => .instr i rest
    | some (.i mk) =>
      match rest with
      | b1 :: rest1 => .instr (mk b1) rest1
      | [] => .rejected (.missingOperands op)
    | some (.r mk) =>
      match rest with
      | b1 :: rest1 => .instr (mk b1) rest1
      | [] => .rejected (.missingOperands op)
    | some (.rr mk) =>
      match rest with
      | b1 :: b2 :: rest2 => .instr (mk b1 b2) rest2
      | [_] => .rejected (.missingOperands op)
      | [] => .rejected (.missingOperands op)
    | some (.a mk) =>
      match rest with
      | b1 :: b2 :: rest2 => .instr (mk (wordOfBytes b1 b2)) rest2
      | [_] => .rejected (.missingOperands op)
      | [] => .rejected (.missingOperands op)

/-- The bytes of an instruction, the first at the lowest address (R61, R65, R72). -/
def encode : Instr → List Byte
  | .nop => [0x00#8]
  | .lda addr => [0x01#8, hiByte addr, loByte addr]
  | .ldb addr => [0x02#8, hiByte addr, loByte addr]
  | .ldi imm8 => [0x03#8, imm8]
  | .inc => [0x04#8]
  | .dec => [0x05#8]
  | .add rd rs => [0x06#8, rd, rs]
  | .sub rd rs => [0x07#8, rd, rs]
  | .mul rd rs => [0x08#8, rd, rs]
  | .sta addr => [0x09#8, hiByte addr, loByte addr]
  | .stb addr => [0x0A#8, hiByte addr, loByte addr]
  | .mov rd rs => [0x0B#8, rd, rs]
  | .cmp rd rs => [0x0C#8, rd, rs]
  | .jmp addr => [0x0D#8, hiByte addr, loByte addr]
  | .jz addr => [0x0E#8, hiByte addr, loByte addr]
  | .jnz addr => [0x0F#8, hiByte addr, loByte addr]
  | .jc addr => [0x10#8, hiByte addr, loByte addr]
  | .jnc addr => [0x11#8, hiByte addr, loByte addr]
  | .je addr => [0x12#8, hiByte addr, loByte addr]
  | .jne addr => [0x13#8, hiByte addr, loByte addr]
  | .jl addr => [0x14#8, hiByte addr, loByte addr]
  | .jg addr => [0x15#8, hiByte addr, loByte addr]
  | .jb addr => [0x16#8, hiByte addr, loByte addr]
  | .ja addr => [0x17#8, hiByte addr, loByte addr]
  | .and rd rs => [0x18#8, rd, rs]
  | .or rd rs => [0x19#8, rd, rs]
  | .xor rd rs => [0x1A#8, rd, rs]
  | .not r => [0x1B#8, r]
  | .push r => [0x1C#8, r]
  | .pop r => [0x1D#8, r]
  | .call addr => [0x1E#8, hiByte addr, loByte addr]
  | .ret => [0x1F#8]
  | .hlt => [0xFF#8]

/-- The instruction's opcode byte: the first byte of its encoding (R61). -/
def opcodeOf (i : Instr) : Byte := (encode i).headD 0x00#8

/-- The instruction's length in bytes (R66). -/
def lengthOf (i : Instr) : Nat := (encode i).length

/-- The `n` bytes of the number `w`, most significant first: byte 0 of an instruction is the most significant
byte of the number spec/opcode_table.json writes (R61: "Read as one big-endian number of 8, 16 or 24 bits
(byte 0 most significant)"; log entry 5). -/
def bigEndianBytes : Nat → Nat → List Byte
  | 0, _ => []
  | n + 1, w => BitVec.ofNat 8 (w / 256 ^ n) :: bigEndianBytes n w

/-- The bytes that the hardware stores for a table word of `nbits` bits, then zeros up to the longest
instruction. -/
def tableBytes (nbits w : Nat) : List Byte :=
  bigEndianBytes (nbits / 8) w ++ [0x00#8, 0x00#8, 0x00#8]

/-- The instruction the decoder reads from a table word (bit 0 the least significant bit of the number, as
spec/opcode_table.json and R61 number them). -/
def decodeTableWord (nbits w : Nat) : Option Instr :=
  match decode (tableBytes nbits w) with
  | .instr i _ => some i
  | .rejected _ => none

end Sys2Proof
end

