-- ==== Sys2Proof/Config.lean ====
section
/-! DEFINITION. The sizes and constants the canonical ISA fixes (00_scope.md R4, 10_state.md R37).
Nothing is left to the implementation (R4), so there is no free value here. -/

namespace Sys2Proof.Config

/-- NREGS (R4): the general registers A, B, C and D. -/
def numRegs : Nat := 4

/-- MEM_SIZE (R4, 20_memory.md R40): one byte for each 16-bit address. -/
def memSize : Nat := 65536

/-- The longest instruction in bytes (30_encoding.md R66). -/
def maxInstrLength : Nat := 3

/-- What a cell holds at reset where no image byte was placed (70_reset_and_hazards.md R181). -/
def resetCell : Byte := 0x00#8

/-- The reset value of A, B, C and D (R37; the spec's decision D5, log entry 6). -/
def resetReg : Byte := 0x00#8

/-- The reset value of FLAGS (R37; the spec's decision D6, log entry 6). -/
def resetFlags : Byte := 0x00#8

/-- The reset value of `pc`, the entry point (R37, R180). -/
def resetPc : Word := 0x0000#16

/-- The reset value of `sp` (R37, 90_conflicts.md C3; the spec's decision D8, log entry 7). -/
def resetSp : Word := 0xFFFF#16

end Sys2Proof.Config
end

