-- ==== Sys2Proof/Machine/State.lean ====
section
/-! DEFINITION. The Processor State (10_state.md) and memory (20_memory.md) as plain data, the reasons a step
can stop, and the machine right after reset (R37). -/

namespace Sys2Proof.Machine

/-- The record of the fatal state (10_state.md R34, 60_exceptions.md R161): the faulting instruction's opcode
address, its opcode byte, and the first register-index byte that is out of range. -/
structure FatalInfo where
  ipc : Word
  op : Byte
  index : Byte
  deriving DecidableEq, Repr

/-- The 65536 cells (20_memory.md R40): pairs of an address and a byte, addresses strictly rising, none with the
byte an unlisted address reads as (0x00, 70_reset_and_hazards.md R181). -/
abbrev Memory := List Host.Cell

/-- Everything that persists from one step to the next (R36), and the implicit-halt record of R152. -/
structure State where
  /-- General register A, index 0 (R20). -/
  a : Byte
  /-- General register B, index 1 (R20). -/
  b : Byte
  /-- General register C, index 2 (R20). -/
  c : Byte
  /-- General register D, index 3 (R20). -/
  d : Byte
  /-- The program counter (R24). -/
  pc : Word
  /-- The stack pointer: the address of the most recently pushed byte (R28). -/
  sp : Word
  /-- FLAGS: bit 0 Zero, bit 1 Carry, bit 2 Sign, bit 3 Overflow, bits 7:4 reserved (R29, R31). -/
  flags : Byte
  /-- The halted flag (R33). -/
  halted : Bool
  /-- The opcode byte of the implicit halt, if one happened (R152, 93 I2): the model's own field, DESIGN CHOICE,
  log entry 3. -/
  implicitHaltOp : Option Byte
  /-- The fatal state (R34): `none` is `fatal` = false, `some info` is `fatal` = true with its `fatal_info`. -/
  fatal : Option FatalInfo
  /-- Memory (20_memory.md R40). -/
  mem : Memory
  deriving DecidableEq, Repr

/-- Why the machine stops with a fault. Both are safe: they are the stops the spec gives (R160, R166), and a stop
proves nothing about a machine that goes on. -/
inductive Fault where
  /-- `FatalRegIndex` (R160 to R163), event code 1: raised by `checkReg` for a register byte 4..255 of ADD, SUB, MUL,
  MOV, CMP, AND, OR, XOR, NOT, PUSH or POP. "A model returns a fault outcome naming fatal_info and keeps no successor
  state" (R163). Safe. -/
  | fatalRegIndex (info : FatalInfo)
  /-- Raised by `step` on a core that is already in the fatal state, which "takes no further step" (R34, R166 (1)).
  It names the record the core holds. Safe (log entry 2). -/
  | coreInFatalState (info : FatalInfo)
  deriving DecidableEq, Repr

/-- Why the model gives no meaning. -/
inductive Refusal where
  /-- An instruction without a meaning yet, named by its mnemonic; raised by `exec` only. No arm of this model uses
  it. Safe. -/
  | notModelled (mnemonic : String)
  /-- Raised by `loadImage`, never by a step: an image of more than 65536 bytes "has no meaning and is refused by the
  model" (R181, decision D23). Safe. -/
  | imageTooLong (bytes : Nat)
  deriving DecidableEq, Repr

/-- What an instruction's meaning and a step answer. -/
abbrev Result := Host.Outcome State Fault Refusal

/-- The machine right after reset with no image placed (R37, R180): every cell reads 0x00 (R181). -/
def State.reset : State where
  a := Config.resetReg
  b := Config.resetReg
  c := Config.resetReg
  d := Config.resetReg
  pc := Config.resetPc
  sp := Config.resetSp
  flags := Config.resetFlags
  halted := false
  implicitHaltOp := none
  fatal := none
  mem := []

end Sys2Proof.Machine
end

