-- ==== Sys2Proof/Machine/Ops.lean ====
section
/-! DEFINITION. The operations over memory, registers and the stack that every meaning is built from, and the
one way to raise the core's only exception (20_memory.md, 10_state.md, 60_exceptions.md). -/

namespace Sys2Proof.Machine

/-! ## Memory -/

/-- The canonical form above address `lo`: addresses strictly rising from `lo`, inside the address space, and no
entry equal to what an unlisted address reads as. -/
def Memory.wfFrom (lo : Nat) : Memory → Bool
  | [] => true
  | (k, v) :: rest =>
    decide (lo ≤ k) && decide (k < Config.memSize) && (v != Config.resetCell) && Memory.wfFrom (k + 1) rest

/-- Memory is in its canonical form. -/
def Memory.wf (m : Memory) : Bool := Memory.wfFrom 0 m

/-- The byte at an address; an unlisted address reads its reset contents (R42, R52, R181). -/
def Memory.read : Memory → Nat → Byte
  | [], _ => Config.resetCell
  | (k, v) :: rest, addr => if k = addr then v else Memory.read rest addr

/-- Put a byte that is not the reset contents in its place among rising addresses. -/
def Memory.insert : Memory → Nat → Byte → Memory
  | [], addr, v => [(addr, v)]
  | (k, w) :: rest, addr, v =>
    if addr < k then (addr, v) :: (k, w) :: rest
    else if addr = k then (addr, v) :: rest
    else (k, w) :: Memory.insert rest addr v

/-- Remove an address from the list: it then reads its reset contents. -/
def Memory.erase (m : Memory) (addr : Nat) : Memory := m.filter fun cell => cell.1 != addr

/-- Set the byte at an address (R42), keeping the canonical form. -/
def Memory.write (m : Memory) (addr : Nat) (v : Byte) : Memory :=
  if v = Config.resetCell then Memory.erase m addr else Memory.insert m addr v

/-- `MemRead(addr, 1)` (00_scope.md R9, R42). -/
def State.memRead (s : State) (addr : Word) : Byte := Memory.read s.mem addr.toNat

/-- `MemWrite(addr, 1, v)` (R9, R42). -/
def State.memWrite (s : State) (addr : Word) (v : Byte) : State :=
  { s with mem := Memory.write s.mem addr.toNat v }

/-- Write bytes at an address and the addresses after it, mod 2^16. -/
def State.memWriteBytes (s : State) (addr : Word) : List Byte → State
  | [] => s
  | v :: rest => State.memWriteBytes (s.memWrite addr v) (addr + 1#16) rest

/-! ## General registers -/

/-- `x[i]` (R9, R20). -/
def State.readReg (s : State) : Reg → Byte
  | .A => s.a
  | .B => s.b
  | .C => s.c
  | .D => s.d

/-- `x[i] <- v` (R9, R20). -/
def State.writeReg (s : State) (r : Reg) (v : Byte) : State :=
  match r with
  | .A => { s with a := v }
  | .B => { s with b := v }
  | .C => { s with c := v }
  | .D => { s with d := v }

/-! ## Program counter and stack -/

/-- `pc <- target` (R9, R25); every target is legal (R26). -/
def State.jump (s : State) (target : Word) : State := { s with pc := target }

/-- A push: `memory[--SP] <- v`, mod 2^16 (R28). -/
def State.pushByte (s : State) (v : Byte) : State :=
  { s with sp := s.sp - 1#16 }.memWrite (s.sp - 1#16) v

/-- A pop: `memory[SP++]`, mod 2^16 (R28); the popped cell is not cleared (R131). -/
def State.popByte (s : State) : Byte × State :=
  (s.memRead s.sp, { s with sp := s.sp + 1#16 })

/-! ## Halting -/

/-- `halted <- true` (R33, R151). -/
def State.halt (s : State) : State := { s with halted := true }

/-- The implicit halt of an undefined opcode byte (R152), and its record (93 I2; log entry 3). -/
def State.implicitHalt (s : State) (op : Byte) : State := { s.halt with implicitHaltOp := some op }

/-! ## The exception -/

/-- The record of R161 for an instruction that runs in state `s` (after its fetch, R162): `pc` is the post-operand
PC, `(ipc + length) mod 2^16` (R24), so `ipc` is `pc - length` (log entry 4). -/
def fatalInfoOf (i : Instr) (index : Byte) (s : State) : FatalInfo where
  ipc := s.pc - BitVec.ofNat 16 (lengthOf i)
  op := opcodeOf i
  index := index

/-- `raise FatalRegIndex(ipc, op, index)` (R9, R161, R163): the step ends, writes nothing more, and answers a fault
naming the record, with no successor state. There is no handler, no vector and no return (R164, R165). -/
def raiseFatal (i : Instr) (index : Byte) (s : State) : Result :=
  .fault (.fatalRegIndex (fatalInfoOf i index s))

/-- The core enters the fatal state (R163): `fatal <- true` with its record. Only `fatal` is defined afterwards. -/
def State.enterFatal (s : State) (info : FatalInfo) : State := { s with fatal := some info }

end Sys2Proof.Machine
end

