-- ==== Sys2Proof/Machine/Flags.lean ====
section
/-! DEFINITION. FLAGS: its four bits (10_state.md R29), how each is computed (40_arithmetic.md R80 to R86,
41_logical.md) and the conditions of the jumps (42_control_flow.md R122). -/

namespace Sys2Proof.Machine

/-! ## The bits -/

/-- Bit `k` of FLAGS with the value `v`, every other bit as it was. -/
def setFlagBit (k : Nat) (v : Bool) (f : Byte) : Byte :=
  if v then f ||| (1#8 <<< k) else f &&& ~~~(1#8 <<< k)

/-- `F.Z`, bit 0 (R29). -/
def State.flagZ (s : State) : Bool := s.flags.getLsbD 0

/-- `F.C`, bit 1 (R29). -/
def State.flagC (s : State) : Bool := s.flags.getLsbD 1

/-- `F.S`, bit 2 (R29). -/
def State.flagS (s : State) : Bool := s.flags.getLsbD 2

/-- `F.O`, bit 3 (R29). -/
def State.flagO (s : State) : Bool := s.flags.getLsbD 3

/-- `F.Z <- v` (R9). -/
def State.setZ (s : State) (v : Bool) : State := { s with flags := setFlagBit 0 v s.flags }

/-- `F.C <- v` (R9). -/
def State.setC (s : State) (v : Bool) : State := { s with flags := setFlagBit 1 v s.flags }

/-- `F.S <- v` (R9). -/
def State.setS (s : State) (v : Bool) : State := { s with flags := setFlagBit 2 v s.flags }

/-- `F.O <- v` (R9). -/
def State.setO (s : State) (v : Bool) : State := { s with flags := setFlagBit 3 v s.flags }

/-- `ZS(r)`: `F.Z <- bit(r == 0); F.S <- r[7]` (R80). -/
def State.setZS (s : State) (r : Byte) : State := (s.setZ (r == 0x00#8)).setS (r.getLsbD 7)

/-! ## The computations -/

/-- Carry of ADD: "intermediate > 255" (R81). -/
def addCarry (a b : Byte) : Bool := decide (a.toNat + b.toNat > 255)

/-- Overflow of ADD: `((a ^ r) & (b ^ r) & 0x80) != 0` (R81). -/
def addOverflow (a b r : Byte) : Bool := ((a ^^^ r) &&& (b ^^^ r) &&& 0x80#8) != 0x00#8

/-- Carry of SUB and CMP: the borrow, `a < b` unsigned (R82, R86). -/
def subCarry (a b : Byte) : Bool := decide (a.toNat < b.toNat)

/-- Overflow of SUB and CMP: `((a ^ b) & (a ^ r) & 0x80) != 0` (R82, R86). -/
def subOverflow (a b r : Byte) : Bool := ((a ^^^ b) &&& (a ^^^ r) &&& 0x80#8) != 0x00#8

/-- Overflow of INC: the old value was 0x7F (R83). -/
def incOverflow (a : Byte) : Bool := a == 0x7F#8

/-- Overflow of DEC: the old value was 0x80 (R84). -/
def decOverflow (a : Byte) : Bool := a == 0x80#8

/-- Carry of MUL: the high byte of the 16-bit product is not 0 (R85). -/
def mulCarry (a b : Byte) : Bool := decide (a.toNat * b.toNat / 256 ≠ 0)

/-- The flag writes of ADD (R81). -/
def State.setAddFlags (s : State) (a b r : Byte) : State :=
  ((s.setZS r).setC (addCarry a b)).setO (addOverflow a b r)

/-- The flag writes SUB and CMP share (R82, R86). -/
def State.setSubFlags (s : State) (a b r : Byte) : State :=
  ((s.setZS r).setC (subCarry a b)).setO (subOverflow a b r)

/-- The flag writes of AND, OR, XOR and NOT: Zero and Sign from the result, Carry and Overflow cleared
(R100 to R103). -/
def State.setLogicFlags (s : State) (r : Byte) : State := ((s.setZS r).setC false).setO false

/-! ## The jump conditions (R122) -/

/-- JZ, JE: Z = 1. -/
def condZero (s : State) : Bool := s.flagZ

/-- JNZ, JNE: Z = 0. -/
def condNotZero (s : State) : Bool := !s.flagZ

/-- JC, JB: C = 1. -/
def condCarry (s : State) : Bool := s.flagC

/-- JNC: C = 0. -/
def condNotCarry (s : State) : Bool := !s.flagC

/-- JL: S ≠ O. -/
def condLess (s : State) : Bool := s.flagS != s.flagO

/-- JG: Z = 0 and S = O. -/
def condGreater (s : State) : Bool := !s.flagZ && (s.flagS == s.flagO)

/-- JA: C = 0 and Z = 0. -/
def condAbove (s : State) : Bool := !s.flagC && !s.flagZ

end Sys2Proof.Machine
end

