-- ==== Sys2Proof/Machine/Operands.lean ====
section
/-! DEFINITION. Operand forms (30_encoding.md R61 to R64). An immediate and an absolute address are used as they
stand (R63, R64); a register operand byte is checked (60_exceptions.md R161, R162). -/

namespace Sys2Proof.Machine

/-- The register a register-index byte selects: A=0, B=1, C=2, D=3; no other byte is a register (R23, R62). -/
def regOfIndex (index : Byte) : Option Reg :=
  match index with
  | 0x00#8 => some .A
  | 0x01#8 => some .B
  | 0x02#8 => some .C
  | 0x03#8 => some .D
  | _ => none

/-- The index of a register (R20). -/
def indexOfReg : Reg → Byte
  | .A => 0x00#8
  | .B => 0x01#8
  | .C => 0x02#8
  | .D => 0x03#8

/-- `CheckReg(i)` (R9, R161): go on with the register the byte selects, or raise `FatalRegIndex`. -/
def checkReg (i : Instr) (index : Byte) (s : State) (go : Reg → Result) : Result :=
  match regOfIndex index with
  | some r => go r
  | none => raiseFatal i index s

/-- `CheckReg(rd); CheckReg(rs)`: `rd` first (R80, R162). -/
def checkRegs (i : Instr) (rd rs : Byte) (s : State) (go : Reg → Reg → Result) : Result :=
  checkReg i rd s fun d => checkReg i rs s fun e => go d e

end Sys2Proof.Machine
end

