-- ==== Sys2Proof/Machine/Arithmetic.lean ====
section
/-! DEFINITION. ADD, SUB, INC, DEC, MUL, CMP (40_arithmetic.md). Each meaning runs after the fetch (R60), so `pc`
already holds the post-operand PC. -/

namespace Sys2Proof.Machine

/-- The exact difference taken mod 2^8 (R82, R86). -/
def difference (a b : Byte) : Byte := BitVec.ofInt 8 ((a.toNat : Int) - (b.toNat : Int))

/-- ADD rd, rs (R81). -/
def execAdd (rd rs : Byte) (s : State) : Result :=
  checkRegs (.add rd rs) rd rs s fun d e =>
    let a := s.readReg d
    let b := s.readReg e
    let r : Byte := BitVec.ofNat 8 (a.toNat + b.toNat)
    .next ((s.writeReg d r).setAddFlags a b r)

/-- SUB rd, rs (R82). -/
def execSub (rd rs : Byte) (s : State) : Result :=
  checkRegs (.sub rd rs) rd rs s fun d e =>
    let a := s.readReg d
    let b := s.readReg e
    let r := difference a b
    .next ((s.writeReg d r).setSubFlags a b r)

/-- INC, on register A; Carry is not affected (R83). -/
def execInc (s : State) : Result :=
  let a := s.readReg .A
  let r : Byte := BitVec.ofNat 8 (a.toNat + 1)
  .next (((s.writeReg .A r).setZS r).setO (incOverflow a))

/-- DEC, on register A; Carry is not affected (R84). -/
def execDec (s : State) : Result :=
  let a := s.readReg .A
  let r := difference a 0x01#8
  .next (((s.writeReg .A r).setZS r).setO (decOverflow a))

/-- MUL rd, rs: unsigned; the low byte to `rd`, Overflow cleared (R85). -/
def execMul (rd rs : Byte) (s : State) : Result :=
  checkRegs (.mul rd rs) rd rs s fun d e =>
    let a := s.readReg d
    let b := s.readReg e
    let r : Byte := BitVec.ofNat 8 (a.toNat * b.toNat)
    .next ((((s.writeReg d r).setZS r).setC (mulCarry a b)).setO false)

/-- CMP rd, rs: the flags of SUB, the operands never written back (R86). -/
def execCmp (rd rs : Byte) (s : State) : Result :=
  checkRegs (.cmp rd rs) rd rs s fun d e =>
    let a := s.readReg d
    let b := s.readReg e
    .next (s.setSubFlags a b (difference a b))

end Sys2Proof.Machine
end

