-- ==== Sys2Proof/Machine/Jumps.lean ====
section
/-! DEFINITION. JMP and the conditional jumps (42_control_flow.md). Each meaning runs after the fetch (R60), so a
jump not taken leaves `pc` at the post-operand PC (R110). -/

namespace Sys2Proof.Machine

/-- Take the jump if the condition holds (R110). -/
def jumpIf (taken : Bool) (target : Word) (s : State) : Result :=
  .next (if taken then s.jump target else s)

/-- JMP addr (R111). -/
def execJmp (addr : Word) (s : State) : Result := .next (s.jump addr)

/-- JZ addr (R112). -/
def execJz (addr : Word) (s : State) : Result := jumpIf (condZero s) addr s

/-- JNZ addr (R113). -/
def execJnz (addr : Word) (s : State) : Result := jumpIf (condNotZero s) addr s

/-- JC addr (R114). -/
def execJc (addr : Word) (s : State) : Result := jumpIf (condCarry s) addr s

/-- JNC addr (R115). -/
def execJnc (addr : Word) (s : State) : Result := jumpIf (condNotCarry s) addr s

/-- JE addr, an alias of JZ with its own opcode (R116, R68). -/
def execJe (addr : Word) (s : State) : Result := jumpIf (condZero s) addr s

/-- JNE addr, an alias of JNZ with its own opcode (R117, R68). -/
def execJne (addr : Word) (s : State) : Result := jumpIf (condNotZero s) addr s

/-- JL addr, signed less (R118). -/
def execJl (addr : Word) (s : State) : Result := jumpIf (condLess s) addr s

/-- JG addr, signed greater (R119). -/
def execJg (addr : Word) (s : State) : Result := jumpIf (condGreater s) addr s

/-- JB addr, unsigned below: the condition of JC, with its own opcode (R120, R68). -/
def execJb (addr : Word) (s : State) : Result := jumpIf (condCarry s) addr s

/-- JA addr, unsigned above (R121). -/
def execJa (addr : Word) (s : State) : Result := jumpIf (condAbove s) addr s

end Sys2Proof.Machine
end

