-- ==== Sys2Proof/Machine/Logical.lean ====
section
/-! DEFINITION. AND, OR, XOR, NOT (41_logical.md). Each meaning runs after the fetch (R60). -/

namespace Sys2Proof.Machine

/-- AND rd, rs (R100). -/
def execAnd (rd rs : Byte) (s : State) : Result :=
  checkRegs (.and rd rs) rd rs s fun d e =>
    let r := s.readReg d &&& s.readReg e
    .next ((s.writeReg d r).setLogicFlags r)

/-- OR rd, rs (R101). -/
def execOr (rd rs : Byte) (s : State) : Result :=
  checkRegs (.or rd rs) rd rs s fun d e =>
    let r := s.readReg d ||| s.readReg e
    .next ((s.writeReg d r).setLogicFlags r)

/-- XOR rd, rs (R102). -/
def execXor (rd rs : Byte) (s : State) : Result :=
  checkRegs (.xor rd rs) rd rs s fun d e =>
    let r := s.readReg d ^^^ s.readReg e
    .next ((s.writeReg d r).setLogicFlags r)

/-- NOT r: `0xFF ^ x[r]` (R103, 00_scope.md R7). -/
def execNot (r : Byte) (s : State) : Result :=
  checkReg (.not r) r s fun d =>
    let v := 0xFF#8 ^^^ s.readReg d
    .next ((s.writeReg d v).setLogicFlags v)

end Sys2Proof.Machine
end

