-- ==== Sys2Proof/Machine/Stack.lean ====
section
/-! DEFINITION. PUSH, POP, CALL, RET (43_stack_and_call.md). Each meaning runs after the fetch (R60). -/

namespace Sys2Proof.Machine

/-- PUSH r (R130). -/
def execPush (r : Byte) (s : State) : Result :=
  checkReg (.push r) r s fun q => .next (s.pushByte (s.readReg q))

/-- POP r (R131). -/
def execPop (r : Byte) (s : State) : Result :=
  checkReg (.pop r) r s fun q => .next (s.popByte.2.writeReg q s.popByte.1)

/-- CALL addr: push the post-operand PC, high byte first then low byte, then jump (R132). -/
def execCall (addr : Word) (s : State) : Result :=
  .next (((s.pushByte (hiByte s.pc)).pushByte (loByte s.pc)).jump addr)

/-- RET: pop the low byte, then the high byte, and jump to the word they make (R133, 90_conflicts.md C1). -/
def execRet (s : State) : Result :=
  let low := s.popByte
  let high := low.2.popByte
  .next (high.2.jump (wordOfBytes high.1 low.1))

end Sys2Proof.Machine
end

