-- ==== Sys2Proof/Machine/System.lean ====
section
/-! DEFINITION. NOP, HLT and the effect of an undefined opcode (45_system.md). Each meaning runs after the fetch
(R60). -/

namespace Sys2Proof.Machine

/-- NOP: nothing; `pc` was advanced by the fetch (R150). -/
def execNop (s : State) : Result := .next s

/-- HLT: `halted <- true` (R151). -/
def execHlt (s : State) : Result := .next s.halt

/-- An undefined opcode byte, after its one-byte fetch: the implicit halt (R152). -/
def execUndefined (op : Byte) (s : State) : Result := .next (s.implicitHalt op)

end Sys2Proof.Machine
end

