-- ==== Sys2Proof/Machine/Transfer.lean ====
section
/-! DEFINITION. LDI, LDA, LDB, STA, STB, MOV (44_data_transfer.md; the spec's decisions D11, D12, log entry 9).
Each meaning runs after the fetch (R60). None of them writes a flag (D14, log entry 10). -/

namespace Sys2Proof.Machine

/-- LDI imm8: `A <- imm8` (R140). -/
def execLdi (imm8 : Byte) (s : State) : Result := .next (s.writeReg .A imm8)

/-- LDA addr: `A <- MemRead(addr, 1)` (R141). -/
def execLda (addr : Word) (s : State) : Result := .next (s.writeReg .A (s.memRead addr))

/-- LDB addr: `B <- MemRead(addr, 1)` (R142). -/
def execLdb (addr : Word) (s : State) : Result := .next (s.writeReg .B (s.memRead addr))

/-- STA addr: `MemWrite(addr, 1, A)` (R143). -/
def execSta (addr : Word) (s : State) : Result := .next (s.memWrite addr (s.readReg .A))

/-- STB addr: `MemWrite(addr, 1, B)` (R144). -/
def execStb (addr : Word) (s : State) : Result := .next (s.memWrite addr (s.readReg .B))

/-- MOV rd, rs: `x[rd] <- x[rs]`, both indices checked (R145). -/
def execMov (rd rs : Byte) (s : State) : Result :=
  checkRegs (.mov rd rs) rd rs s fun d e => .next (s.writeReg d (s.readReg e))

end Sys2Proof.Machine
end

