-- ==== Sys2Proof/Machine/Dispatch.lean ====
section
/-! DEFINITION. One arm per instruction: the meaning of each, on the state after the instruction's fetch
(30_encoding.md R60). -/

namespace Sys2Proof.Machine

def exec (i : Instr) (s : State) : Host.Outcome State Fault Refusal :=
  match i with
  | .nop => Sys2Proof.Machine.execNop s
  | .lda addr => Sys2Proof.Machine.execLda addr s
  | .ldb addr => Sys2Proof.Machine.execLdb addr s
  | .ldi imm8 => Sys2Proof.Machine.execLdi imm8 s
  | .inc => Sys2Proof.Machine.execInc s
  | .dec => Sys2Proof.Machine.execDec s
  | .add rd rs => Sys2Proof.Machine.execAdd rd rs s
  | .sub rd rs => Sys2Proof.Machine.execSub rd rs s
  | .mul rd rs => Sys2Proof.Machine.execMul rd rs s
  | .sta addr => Sys2Proof.Machine.execSta addr s
  | .stb addr => Sys2Proof.Machine.execStb addr s
  | .mov rd rs => Sys2Proof.Machine.execMov rd rs s
  | .cmp rd rs => Sys2Proof.Machine.execCmp rd rs s
  | .jmp addr => Sys2Proof.Machine.execJmp addr s
  | .jz addr => Sys2Proof.Machine.execJz addr s
  | .jnz addr => Sys2Proof.Machine.execJnz addr s
  | .jc addr => Sys2Proof.Machine.execJc addr s
  | .jnc addr => Sys2Proof.Machine.execJnc addr s
  | .je addr => Sys2Proof.Machine.execJe addr s
  | .jne addr => Sys2Proof.Machine.execJne addr s
  | .jl addr => Sys2Proof.Machine.execJl addr s
  | .jg addr => Sys2Proof.Machine.execJg addr s
  | .jb addr => Sys2Proof.Machine.execJb addr s
  | .ja addr => Sys2Proof.Machine.execJa addr s
  | .and rd rs => Sys2Proof.Machine.execAnd rd rs s
  | .or rd rs => Sys2Proof.Machine.execOr rd rs s
  | .xor rd rs => Sys2Proof.Machine.execXor rd rs s
  | .not r => Sys2Proof.Machine.execNot r s
  | .push r => Sys2Proof.Machine.execPush r s
  | .pop r => Sys2Proof.Machine.execPop r s
  | .call addr => Sys2Proof.Machine.execCall addr s
  | .ret => Sys2Proof.Machine.execRet s
  | .hlt => Sys2Proof.Machine.execHlt s

end Sys2Proof.Machine
end

