-- ==== Sys2Proof/Machine/Fetch.lean ====
section
/-! DEFINITION. Fetching an instruction's bytes (30_encoding.md R60), and placing bytes where the fetch reads. -/

namespace Sys2Proof.Machine

/-- What a fetch found at `pc`. -/
inductive Fetched where
  | instr (i : Instr)
  | undefinedOpcode (op : Byte)
  deriving DecidableEq, Repr

/-- `FetchByte()`: read the byte at `pc` and advance `pc` past it, mod 2^16 (R60, 10_state.md R27). -/
def fetchByte (s : State) : Byte × State := (s.memRead s.pc, { s with pc := s.pc + 1#16 })

/-- The fetch of a step (R60): the opcode byte, then as many operand bytes as its format has, one at a time in
increasing address order (R50); an undefined opcode consumes its opcode byte only (R67, R152). -/
def fetch (s : State) : Fetched × State :=
  let first := fetchByte s
  match opcodeForm first.1 with
  | none => (.undefinedOpcode first.1, first.2)
  | some (.n i) => (.instr i, first.2)
  | some (.i mk) =>
    let second := fetchByte first.2
    (.instr (mk second.1), second.2)
  | some (.r mk) =>
    let second := fetchByte first.2
    (.instr (mk second.1), second.2)
  | some (.rr mk) =>
    let second := fetchByte first.2
    let third := fetchByte second.2
    (.instr (mk second.1 third.1), third.2)
  | some (.a mk) =>
    let second := fetchByte first.2
    let third := fetchByte second.2
    (.instr (mk (wordOfBytes second.1 third.1)), third.2)

/-- A core that fetches: neither halted nor fatal (R60). -/
def State.running (s : State) : State := { s with halted := false, implicitHaltOp := none, fatal := none }

/-- The bytes of a table word at `pc`, on a core that fetches (log entry 8). -/
def placeTableWord (s : State) (nbits w : Nat) : State :=
  s.running.memWriteBytes s.pc ((tableBytes nbits w).take Config.maxInstrLength)

end Sys2Proof.Machine
end

