-- ==== Sys2Proof/Machine/Step.lean ====
section
/-! DEFINITION. One step of the core (30_encoding.md R60, 60_exceptions.md R166), and the host's way to place an
instruction where the next step fetches it. -/

namespace Sys2Proof.Machine

/-- One step, in the order of R166: a core in the fatal state has no step; a halted core's step is a no-op; an
undefined opcode halts after its one fetch; a defined opcode is fetched whole and executes. -/
def step (s : State) : Host.Outcome State Fault Refusal :=
  match s.fatal with
  | some info => .fault (.coreInFatalState info)
  | none =>
    if s.halted then .next s
    else
      match fetch s with
      | (.undefinedOpcode op, t) => execUndefined op t
      | (.instr i, t) => exec i t

/-- `s` with the table word stored where the next step fetches, so that the next step runs it (log entry 8). -/
def State.withFetchWord (s : State) (nbits w : Nat) : State := placeTableWord s nbits w

end Sys2Proof.Machine
end

