-- ==== Sys2Proof/Machine/Assembly.lean ====
section
/-! DEFINITION. The assembly language (30_encoding.md R70 to R74): the bytes of a source text, or why it has none.
The tool itself is out of scope (00_scope.md R3); this is the language it accepts. -/

namespace Sys2Proof.Machine

/-- Why a source has no output (R73; log entry 15 for `badLabel`). -/
inductive AsmError where
  /-- The first token of an instruction is no mnemonic. -/
  | unknownMnemonic
  /-- Two lines define the same label. -/
  | duplicateLabel
  /-- The text before a `:` is no single name. -/
  | badLabel
  /-- An operand is "neither a known label, a known register name, nor a parseable number", or is not of the kind its
  position takes. -/
  | badOperand
  /-- A number does not fit its field (decision D25). -/
  | outOfRange
  /-- The instruction has more or fewer operands than its category takes (decision D25). -/
  | operandCount
  deriving DecidableEq, Repr

/-! ## Mnemonics (R65, R68: each mnemonic has its own opcode byte, aliases too) -/

/-- Each mnemonic and its opcode byte (R65). -/
def mnemonicTable : List (String × Byte) :=
  [("NOP", 0x00#8), ("LDA", 0x01#8), ("LDB", 0x02#8), ("LDI", 0x03#8), ("INC", 0x04#8), ("DEC", 0x05#8),
    ("ADD", 0x06#8), ("SUB", 0x07#8), ("MUL", 0x08#8), ("STA", 0x09#8), ("STB", 0x0A#8), ("MOV", 0x0B#8),
    ("CMP", 0x0C#8)] ++
  [("JMP", 0x0D#8), ("JZ", 0x0E#8), ("JNZ", 0x0F#8), ("JC", 0x10#8), ("JNC", 0x11#8), ("JE", 0x12#8),
    ("JNE", 0x13#8), ("JL", 0x14#8), ("JG", 0x15#8), ("JB", 0x16#8), ("JA", 0x17#8)] ++
  [("AND", 0x18#8), ("OR", 0x19#8), ("XOR", 0x1A#8), ("NOT", 0x1B#8), ("PUSH", 0x1C#8), ("POP", 0x1D#8),
    ("CALL", 0x1E#8), ("RET", 0x1F#8), ("HLT", 0xFF#8)]

/-- The format a mnemonic's opcode has; mnemonics are upper case (decision D25). -/
def mnemonicForm (token : List Char) : Option Form :=
  (mnemonicTable.find? fun row => row.1.toList == token).bind fun row => opcodeForm row.2

/-- The mnemonic of an opcode byte, as a disassembler prints it (R68). -/
def opcodeMnemonic (op : Byte) : Option String :=
  (mnemonicTable.find? fun row => row.2 == op).map fun row => row.1

/-! ## Lines (R70) -/

/-- Whitespace inside a line. -/
def isBlank (ch : Char) : Bool := ch == ' ' || ch == '\t' || ch == '\r'

/-- What separates tokens: "on whitespace/comma" (R70). -/
def isSeparator (ch : Char) : Bool := isBlank ch || ch == ','

/-- The lines of a text. -/
def splitLines : List Char → List (List Char)
  | [] => [[]]
  | ch :: rest =>
    if ch = '\n' then [] :: splitLines rest
    else
      match splitLines rest with
      | [] => [[ch]]
      | line :: lines => (ch :: line) :: lines

/-- The tokens of a text, `current` being the token read so far. -/
def tokensFrom (current : List Char) : List Char → List (List Char)
  | [] => if current = [] then [] else [current]
  | ch :: rest =>
    if isSeparator ch then
      if current = [] then tokensFrom [] rest else current :: tokensFrom [] rest
    else tokensFrom (current ++ [ch]) rest

/-- The tokens of a text (R70). -/
def tokens (text : List Char) : List (List Char) := tokensFrom [] text

/-- A line without its comment: "text from the first `;` to end of line" goes (R70). -/
def stripComment (line : List Char) : List Char := line.takeWhile fun ch => ch != ';'

/-- A label name in the one spelling that stands for all its cases (R71). -/
def labelKey (name : List Char) : List Char := name.map Char.toLower

/-- A line as the assembler reads it: the label it defines, and its instruction's format and operand tokens. -/
structure SourceLine where
  label : Option (List Char)
  body : Option (Form × List (List Char))

/-- How many operands a category takes (R72). -/
def operandCount : Form → Nat
  | .n _ => 0
  | .i _ => 1
  | .r _ => 1
  | .rr _ => 2
  | .a _ => 1

/-- The instruction part of a line (R70, R73). -/
def parseBody (text : List Char) : Except AsmError (Option (Form × List (List Char))) :=
  match tokens text with
  | [] => .ok none
  | mnemonic :: operands =>
    match mnemonicForm mnemonic with
    | none => .error .unknownMnemonic
    | some f => if operands.length = operandCount f then .ok (some (f, operands)) else .error .operandCount

/-- One source line (R70): an optional label, then an optional instruction, then an optional comment. -/
def parseLine (line : List Char) : Except AsmError SourceLine :=
  let text := stripComment line
  if text.contains ':' then
    match tokens (text.takeWhile fun ch => ch != ':') with
    | [name] =>
      match parseBody ((text.dropWhile fun ch => ch != ':').drop 1) with
      | .ok body => .ok { label := some (labelKey name), body := body }
      | .error e => .error e
    | _ => .error .badLabel
  else
    match parseBody text with
    | .ok body => .ok { label := none, body := body }
    | .error e => .error e

/-- Every line, or the first error. -/
def parseLines : List (List Char) → Except AsmError (List SourceLine)
  | [] => .ok []
  | line :: rest =>
    match parseLine line with
    | .error e => .error e
    | .ok parsed =>
      match parseLines rest with
      | .error e => .error e
      | .ok others => .ok (parsed :: others)

/-! ## Labels (R71) -/

/-- How many bytes a line emits (R74). -/
def lineLength (line : SourceLine) : Nat :=
  match line.body with
  | none => 0
  | some (f, _) => formLength f

/-- The address a label names, if a line defines it. -/
def lookupLabel (labels : List (List Char × Nat)) (key : List Char) : Option Nat :=
  (labels.find? fun entry => entry.1 == key).map fun entry => entry.2

/-- The labels of the lines and the addresses they name: the sum of the lengths before them, from `addr` on; a
duplicate label is an error (R71). -/
def assignLabels (labels : List (List Char × Nat)) (addr : Nat) :
    List SourceLine → Except AsmError (List (List Char × Nat))
  | [] => .ok labels
  | line :: rest =>
    match line.label with
    | none => assignLabels labels (addr + lineLength line) rest
    | some key =>
      match lookupLabel labels key with
      | some _ => .error .duplicateLabel
      | none => assignLabels (labels ++ [(key, addr)]) (addr + lineLength line) rest

/-! ## Operands (R72, R73) -/

/-- The value of a digit in base 10 or 16. -/
def digitValue (base : Nat) (ch : Char) : Option Nat :=
  let v :=
    if '0' ≤ ch ∧ ch ≤ '9' then ch.toNat - '0'.toNat
    else if 'a' ≤ ch ∧ ch ≤ 'f' then ch.toNat - 'a'.toNat + 10
    else if 'A' ≤ ch ∧ ch ≤ 'F' then ch.toNat - 'A'.toNat + 10
    else base
  if v < base then some v else none

/-- The number that digits after the number `acc` make. -/
def digitsFrom (base acc : Nat) : List Char → Option Nat
  | [] => some acc
  | ch :: rest =>
    match digitValue base ch with
    | none => none
    | some v => digitsFrom base (acc * base + v) rest

/-- A numeric literal, "decimal or `0x`-prefixed hex" (R72). -/
def numeral : List Char → Option Nat
  | [] => none
  | ['0', 'x'] => none
  | '0' :: 'x' :: digits => digitsFrom 16 0 digits
  | digits => digitsFrom 10 0 digits

/-- A number that must fit a byte (decision D25). -/
def byteOperand (token : List Char) : Except AsmError Byte :=
  match numeral token with
  | none => .error .badOperand
  | some v => if v < 256 then .ok (BitVec.ofNat 8 v) else .error .outOfRange

/-- A register operand: a register name, or a numeric literal emitted as that byte (R72, R73). -/
def registerOperand (token : List Char) : Except AsmError Byte :=
  match token with
  | ['A'] => .ok 0x00#8
  | ['B'] => .ok 0x01#8
  | ['C'] => .ok 0x02#8
  | ['D'] => .ok 0x03#8
  | _ => byteOperand token

/-- A target: "a label if it matches a known label, otherwise a numeric literal" (R72). -/
def targetOperand (labels : List (List Char × Nat)) (token : List Char) : Except AsmError Word :=
  match (lookupLabel labels (labelKey token)).or (numeral token) with
  | none => .error .badOperand
  | some v => if v < Config.memSize then .ok (BitVec.ofNat 16 v) else .error .outOfRange

/-- The instruction a line's format and operand tokens make (R72). -/
def lineInstr (labels : List (List Char × Nat)) (f : Form) (operands : List (List Char)) : Except AsmError Instr :=
  match f, operands with
  | .n i, [] => .ok i
  | .i mk, [token] => (byteOperand token).map mk
  | .r mk, [token] => (registerOperand token).map mk
  | .rr mk, [tokenTo, tokenFrom] =>
    match registerOperand tokenTo with
    | .error e => .error e
    | .ok rd => (registerOperand tokenFrom).map (mk rd)
  | .a mk, [token] => (targetOperand labels token).map mk
  | _, _ => .error .operandCount

/-! ## The whole text -/

/-- The bytes of the lines, each line's after the one before it (R74). -/
def emitLines (labels : List (List Char × Nat)) : List SourceLine → Except AsmError (List Byte)
  | [] => .ok []
  | line :: rest =>
    match line.body with
    | none => emitLines labels rest
    | some (f, operands) =>
      match lineInstr labels f operands with
      | .error e => .error e
      | .ok i =>
        match emitLines labels rest with
        | .error e => .error e
        | .ok others => .ok (encode i ++ others)

/-- The image of a source text (R70 to R74): labels are all resolved before bytes are emitted, so a label may be
used before its line. -/
def assemble (source : String) : Except AsmError (List Byte) :=
  match parseLines (splitLines source.toList) with
  | .error e => .error e
  | .ok lines =>
    match assignLabels [] 0 lines with
    | .error e => .error e
    | .ok labels => emitLines labels lines

end Sys2Proof.Machine
end

