-- ==== Sys2Proof/Machine/Bus.lean ====
section
/-! DEFINITION. The core's memory port (20_memory.md R51): the transactions of a step, in the order of R50 and R43.
The step itself reads and writes memory directly; this is the same traffic as a host or a bus would see it. -/

namespace Sys2Proof.Machine

/-- A completed transaction on the port, one byte wide (R46, R51). -/
inductive Transaction where
  /-- `Read(addr)` and the byte of its response. -/
  | read (addr : Word) (data : Byte)
  /-- `Write(addr, data)`. -/
  | write (addr : Word) (data : Byte)
  deriving DecidableEq, Repr

/-- The memory after a transaction (R42). -/
def applyTransaction (m : Memory) : Transaction → Memory
  | .read _ _ => m
  | .write addr data => Memory.write m addr.toNat data

/-- The memory after transactions, one at a time in order (R51, R52). -/
def applyTransactions (m : Memory) (ts : List Transaction) : Memory := ts.foldl applyTransaction m

/-- The reads of `n` bytes at `addr` and the addresses after it, mod 2^16. -/
def readsFrom (s : State) (addr : Word) : Nat → List Transaction
  | 0 => []
  | n + 1 => .read addr (s.memRead addr) :: readsFrom s (addr + 1#16) n

/-- The fetches of a step: the opcode byte, then the operand bytes in increasing address order (R50); one byte for
an undefined opcode (R67). -/
def fetchTransactions (s : State) : List Transaction :=
  readsFrom s s.pc ((opcodeLength (s.memRead s.pc)).getD 1)

/-- The data accesses of an instruction in the state after its fetch, in order (R43). An instruction that raises
`FatalRegIndex` performs none (R50). -/
def dataTransactions (i : Instr) (s : State) : List Transaction :=
  match i with
  | .lda addr => [.read addr (s.memRead addr)]
  | .ldb addr => [.read addr (s.memRead addr)]
  | .sta addr => [.write addr s.a]
  | .stb addr => [.write addr s.b]
  | .push r =>
    match regOfIndex r with
    | some q => [.write (s.sp - 1#16) (s.readReg q)]
    | none => []
  | .pop r =>
    match regOfIndex r with
    | some _ => [.read s.sp (s.memRead s.sp)]
    | none => []
  | .call _ => [.write (s.sp - 1#16) (hiByte s.pc), .write (s.sp - 2#16) (loByte s.pc)]
  | .ret => [.read s.sp (s.memRead s.sp), .read (s.sp + 1#16) (s.memRead (s.sp + 1#16))]
  | .nop => []
  | .ldi _ => []
  | .inc => []
  | .dec => []
  | .add _ _ => []
  | .sub _ _ => []
  | .mul _ _ => []
  | .mov _ _ => []
  | .cmp _ _ => []
  | .jmp _ => []
  | .jz _ => []
  | .jnz _ => []
  | .jc _ => []
  | .jnc _ => []
  | .je _ => []
  | .jne _ => []
  | .jl _ => []
  | .jg _ => []
  | .jb _ => []
  | .ja _ => []
  | .and _ _ => []
  | .or _ _ => []
  | .xor _ _ => []
  | .not _ => []
  | .hlt => []

/-- Every transaction of the step from `s`, in order (R50): none for a halted core (R33) or a fatal one (R34). -/
def stepTransactions (s : State) : List Transaction :=
  if s.halted || s.fatal.isSome then []
  else
    fetchTransactions s ++
      match fetch s with
      | (.undefinedOpcode _, _) => []
      | (.instr i, t) => dataTransactions i t

end Sys2Proof.Machine
end

