-- ==== Sys2Proof/Machine/Boot.lean ====
section
/-! DEFINITION. Loading the program image (70_reset_and_hazards.md R181): it happens before the first step and is
not a step. -/

namespace Sys2Proof.Machine

/-- The cells of a byte sequence placed from address `k` on, in canonical form. -/
def imageCells (k : Nat) : List Byte → Memory
  | [] => []
  | v :: rest => if v = Config.resetCell then imageCells (k + 1) rest else (k, v) :: imageCells (k + 1) rest

/-- Reset, then the image of `n` bytes at addresses 0..n-1 and 0x00 elsewhere; an image of more than 65536 bytes
"is refused by the model" (R181, decision D23). -/
def loadImage (image : List Byte) : Result :=
  if image.length ≤ Config.memSize then .next { State.reset with mem := imageCells 0 image }
  else .refused (.imageTooLong image.length)

end Sys2Proof.Machine
end

