-- ==== Sys2Proof/Machine/Run.lean ====
section
/-! DEFINITION. The run and its end (70_reset_and_hazards.md R183, R184), and what the host reads (R185). -/

namespace Sys2Proof.Machine

/-- How a run stands (R184). A run that is `unfinished` whatever the number of steps is a hang. -/
inductive RunEnd where
  /-- (a) The normal end: the state is final and the host reads it. -/
  | halted (s : State)
  /-- (b) `FatalRegIndex` was raised: only the record is defined. -/
  | fatal (info : FatalInfo)
  /-- Neither, after the given number of steps. -/
  | unfinished (s : State)
  /-- The model has no meaning for the run: an image longer than memory (R181). -/
  | refused (r : Refusal)
  deriving DecidableEq, Repr

/-- Whether a core takes no further step, and why (R33, R34). -/
def endOf (s : State) : Option RunEnd :=
  match s.fatal with
  | some info => some (.fatal info)
  | none => if s.halted then some (.halted s) else none

/-- "`while not halted: step(...)`", stopping also when `FatalRegIndex` is raised (R183), for at most `n` steps
(93 I11: executors run under fuel). -/
def run : Nat → State → RunEnd
  | 0, s => (endOf s).getD (.unfinished s)
  | n + 1, s =>
    match endOf s with
    | some e => e
    | none =>
      match step s with
      | .next t => run n t
      | .fault (.fatalRegIndex info) => .fatal info
      | .fault (.coreInFatalState info) => .fatal info
      | .refused r => .refused r

/-- A launch (00_scope.md R5): load the image, then run. -/
def launch (n : Nat) (image : List Byte) : RunEnd :=
  match loadImage image with
  | .next s => run n s
  | .fault (.fatalRegIndex info) => .fatal info
  | .fault (.coreInFatalState info) => .fatal info
  | .refused r => .refused r

/-- One turn of the host's loop with the fatal state kept as state (10_state.md R34, R163): a step that raises
`FatalRegIndex` leaves the core fatal, with its fetch done and nothing else written (60_exceptions.md R162); a fatal
core stays as it is. After a fatal fault only the field `fatal` is defined (R163; log entry 1). -/
def hostTurn (s : State) : State :=
  match s.fatal with
  | some _ => s
  | none =>
    match step s with
    | .next t => t
    | .fault (.fatalRegIndex info) => (fetch s).2.enterFatal info
    | .fault (.coreInFatalState info) => s.enterFatal info
    | .refused _ => s

/-- `n` turns of the host's loop. -/
def hostTurns : Nat → State → State
  | 0, s => s
  | n + 1, s => hostTurns n (hostTurn s)

end Sys2Proof.Machine
end

