-- ==== Sys2Proof/Safety.lean ====
section
/-! DEFINITION. What counts as a good state and a safe run, in the terms claims use. -/

namespace Sys2Proof.Machine

/-- The reserved bits 7:4 of FLAGS read 0 (10_state.md R31). -/
def State.reservedClear (s : State) : Bool := s.flags.extractLsb' 4 4 == 0#4

/-- The implicit-halt record is set only on a halted core and only to a byte that is not in the opcode map
(45_system.md R152, log entry 3). -/
def State.haltRecordOk (s : State) : Bool :=
  match s.implicitHaltOp with
  | none => true
  | some op => s.halted && (opcodeForm op).isNone

/-- The invariant of the core: canonical memory, reserved flag bits clear, a truthful halt record. -/
def State.inv (s : State) : Bool := Memory.wf s.mem && s.reservedClear && s.haltRecordOk

/-- The core can take a step that executes: it is neither halted nor fatal (R60). -/
def State.canStep (s : State) : Bool := !s.halted && s.fatal.isNone

/-- States that steps reach from `s`. -/
inductive Reaches (s : State) : State → Prop where
  | here : Reaches s s
  | next (t u : State) (before : Reaches s t) (taken : step t = .next u) : Reaches s u

/-- A safe run from `s`: no step of it raises `FatalRegIndex` (R163: "a claim takes 'no fatal fault' as a
premise"). -/
def NeverFatal (s : State) : Prop := ∀ t, Reaches s t → ∃ u, step t = .next u

/-- The run from `s` ends halted (R184 (a)). -/
def EndsHalted (s : State) : Prop := ∃ n t, run n s = .halted t

/-- The run from `s` ends fatal (R184 (b)). -/
def EndsFatal (s : State) : Prop := ∃ n info, run n s = .fatal info

/-- The run from `s` is a hang (R184 (c), R188): no number of steps ends it. -/
def Hangs (s : State) : Prop := ∀ n, ∃ t, run n s = .unfinished t

/-! ## Frames: what is as it was -/

/-- Every general register is as it was. -/
def SameRegs (s t : State) : Prop := ∀ q, t.readReg q = s.readReg q

/-- Every general register but `r` is as it was. -/
def SameRegsBut (r : Reg) (s t : State) : Prop := ∀ q, q ≠ r → t.readReg q = s.readReg q

/-- Every byte of memory reads as it did. -/
def SameMemory (s t : State) : Prop := ∀ k : Word, t.memRead k = s.memRead k

/-- Every byte of memory outside the addresses reads as it did. -/
def SameMemoryOutside (addrs : List Word) (s t : State) : Prop := ∀ k : Word, k ∉ addrs → t.memRead k = s.memRead k

/-- The reserved bits 7:4 of FLAGS are as they were. -/
def SameReserved (s t : State) : Prop := t.flags.extractLsb' 4 4 = s.flags.extractLsb' 4 4

/-- The halted flag, its record and the fatal state are as they were. -/
def SameStops (s t : State) : Prop :=
  t.halted = s.halted ∧ t.implicitHaltOp = s.implicitHaltOp ∧ t.fatal = s.fatal

/-- What a register-only ALU instruction leaves alone outside the general registers and FLAGS. (That FLAGS bits 7:4
stay too is a statement about every instruction, from R31.) -/
def SameOutsideAlu (s t : State) : Prop :=
  t.pc = s.pc ∧ t.sp = s.sp ∧ SameStops s t ∧ SameMemory s t

end Sys2Proof.Machine
end

