-- ==== Sys2Proof/WellFormed.lean ====
section
/-! DEFINITION. Which instructions are well formed: "no register index used by an instruction may exceed 3"
(10_state.md R23, 30_encoding.md R62). Immediates and addresses may hold any value (R67). -/

namespace Sys2Proof

/-- A register operand byte names a register (R23). -/
def registerByteOk (index : Byte) : Bool := decide (index.toNat < Config.numRegs)

/-- Every register operand byte of the instruction names a register (R23, R62). -/
def Instr.wellFormed : Instr → Bool
  | .nop => true
  | .lda _ => true
  | .ldb _ => true
  | .ldi _ => true
  | .inc => true
  | .dec => true
  | .add rd rs => registerByteOk rd && registerByteOk rs
  | .sub rd rs => registerByteOk rd && registerByteOk rs
  | .mul rd rs => registerByteOk rd && registerByteOk rs
  | .sta _ => true
  | .stb _ => true
  | .mov rd rs => registerByteOk rd && registerByteOk rs
  | .cmp rd rs => registerByteOk rd && registerByteOk rs
  | .jmp _ => true
  | .jz _ => true
  | .jnz _ => true
  | .jc _ => true
  | .jnc _ => true
  | .je _ => true
  | .jne _ => true
  | .jl _ => true
  | .jg _ => true
  | .jb _ => true
  | .ja _ => true
  | .and rd rs => registerByteOk rd && registerByteOk rs
  | .or rd rs => registerByteOk rd && registerByteOk rs
  | .xor rd rs => registerByteOk rd && registerByteOk rs
  | .not r => registerByteOk r
  | .push r => registerByteOk r
  | .pop r => registerByteOk r
  | .call _ => true
  | .ret => true
  | .hlt => true

end Sys2Proof
end

