-- ==== Sys2Proof/Certificates/Slice0/Obligations.lean ====
section
/-! DEFINITION. The statements about the machine, each from a rule of spec/. Register operands are written with
`indexOfReg`, which gives every operand byte that names a register; `BadRegisterByteRaisesFatal` covers the others. -/

open Sys2Proof Sys2Proof.Machine

/-! ## Reset and load -/

/-- 10_state.md R37, 70 R180, R181. The values of A to D, FLAGS, `pc`, `sp`, `halted` and `fatal` are the spec's own
decisions D5 to D9 (log entries 6, 7); the empty halt record is the model's (log entry 3). -/
def Obligations.ResetStateValues : Prop :=
  (∀ q, State.reset.readReg q = 0x00#8) ∧ State.reset.flags = 0x00#8 ∧ State.reset.pc = 0x0000#16 ∧
  State.reset.sp = 0xFFFF#16 ∧ State.reset.halted = false ∧ State.reset.implicitHaltOp = none ∧
  State.reset.fatal = none ∧ ∀ k : Word, State.reset.memRead k = 0x00#8

/-- 70 R181: cell `k` holds `IMAGE[k]` for `k < n` and 0x00 above; a longer image is refused (the spec's decision
D23). Everything else is as at reset, and memory is canonical. -/
def Obligations.LoadPlacesTheImage : Prop :=
  ∀ image : List Byte,
    (image.length ≤ 65536 → ∃ s, loadImage image = .next s ∧ (∀ k : Word, s.memRead k = image.getD k.toNat 0x00#8) ∧
      Memory.wf s.mem = true ∧ { s with mem := State.reset.mem } = State.reset) ∧
    (65536 < image.length → loadImage image = .refused (.imageTooLong image.length))

/-! ## Encoding -/

/-- 30_encoding.md R61, R65: every instruction, with every operand at every value, decodes from its encoding, and
decoding leaves what follows. -/
def Obligations.DecodeOfEncodeIsTheInstruction : Prop :=
  ∀ (i : Instr) (rest : List Byte), decode (encode i ++ rest) = .instr i rest

/-- R61, R66, R69: bytes that decode are the instruction's encoding and what follows it, so no two byte sequences
decode to one instruction. -/
def Obligations.DecodedBytesAreTheEncoding : Prop :=
  ∀ (bytes rest : List Byte) (i : Instr), decode bytes = .instr i rest → bytes = encode i ++ rest

/-- R67: the opcode bytes the decoder rejects are exactly 0x20..0xFE, each by name, whatever follows. -/
def Obligations.UndefinedOpcodesAreRejectedByName : Prop :=
  ∀ (op : Byte) (rest : List Byte),
    (0x20 ≤ op.toNat ∧ op.toNat ≤ 0xFE) ↔ decode (op :: rest) = .rejected (.undefinedOpcode op)

/-- R66: the length is a function of the opcode byte alone, and a decoded instruction has that many bytes. -/
def Obligations.LengthIsFixedByTheOpcode : Prop :=
  (∀ op : Byte, opcodeLength op =
    if op ∈ [0x00#8, 0x04#8, 0x05#8, 0x1F#8, 0xFF#8] then some 1
    else if op ∈ [0x03#8, 0x1B#8, 0x1C#8, 0x1D#8] then some 2
    else if op.toNat ≤ 0x1E then some 3
    else none) ∧
  ∀ (op : Byte) (bytes rest : List Byte) (i : Instr), decode (op :: bytes) = .instr i rest →
    opcodeLength op = some (lengthOf i) ∧ (op :: bytes).length = lengthOf i + rest.length

/-- R61, R64, R65, 20 R44: words written out from the encodings, one of each format and the address byte order. -/
def Obligations.WordsFromTheOpcodeMapDecode : Prop :=
  decode [0x04#8, 0xAA#8] = .instr .inc [0xAA#8] ∧
  decode [0x03#8, 0x05#8] = .instr (.ldi 0x05#8) [] ∧
  decode [0x1D#8, 0x01#8] = .instr (.pop 0x01#8) [] ∧
  decode [0x0B#8, 0x02#8, 0x01#8] = .instr (.mov 0x02#8 0x01#8) [] ∧
  decode [0x1E#8, 0x12#8, 0x34#8] = .instr (.call 0x1234#16) [] ∧
  decode [0xFF#8] = .instr .hlt []

/-! ## Memory -/

/-- 20_memory.md R42: a read returns the byte last written at its address; every other address is as it was, and so
is everything that is not memory. -/
def Obligations.ReadReturnsTheLastWrite : Prop :=
  ∀ (s : State) (addr k : Word) (v : Byte),
    (s.memWrite addr v).memRead k = (if k = addr then v else s.memRead k) ∧
    { s.memWrite addr v with mem := s.mem } = s

/-! ## The step -/

/-- 30 R60: when the bytes at `pc` decode to `i`, the step of a core that is neither halted nor fatal is `exec i` on
the state with `pc` past the instruction's bytes, mod 2^16 (wrap: the spec's decision D4). -/
def Obligations.StepRunsTheDecodedInstruction : Prop :=
  ∀ (s : State) (i : Instr) (rest : List Byte), s.halted = false → s.fatal = none →
    decode [s.memRead s.pc, s.memRead (s.pc + 1#16), s.memRead (s.pc + 2#16)] = .instr i rest →
    step s = exec i { s with pc := s.pc + BitVec.ofNat 16 (lengthOf i) }

/-- 10 R33: a step of a halted core writes nothing and makes no transaction. -/
def Obligations.StepOfHaltedCoreIsNoOp : Prop :=
  ∀ s : State, s.halted = true → s.fatal = none → step s = .next s ∧ stepTransactions s = []

/-- 10 R34, 60 R166 (1): a core in the fatal state takes no further step; the fault named is the model's
(log entry 2). -/
def Obligations.StepOfFatalCoreFaults : Prop :=
  ∀ (s : State) (info : FatalInfo), s.fatal = some info →
    step s = .fault (.coreInFatalState info) ∧ stepTransactions s = []

/-- 45 R152: an opcode byte 0x20..0xFE halts the core, consumes its one byte (the spec's decision D18) and changes
nothing else; the record of the byte is the model's (log entry 3). -/
def Obligations.UndefinedOpcodeHaltsTheCore : Prop :=
  ∀ s : State, s.halted = false → s.fatal = none →
    0x20 ≤ (s.memRead s.pc).toNat → (s.memRead s.pc).toNat ≤ 0xFE →
    step s = .next { s with pc := s.pc + 1#16, halted := true, implicitHaltOp := some (s.memRead s.pc) }

/-- 45 R150: NOP has no effect of its own, and its step advances `pc` past its one byte and does nothing else. -/
def Obligations.NopOnlyAdvancesPc : Prop :=
  encode .nop = [0x00#8] ∧ (∀ s : State, exec .nop s = .next s) ∧
  ∀ s : State, s.halted = false → s.fatal = none → s.memRead s.pc = 0x00#8 →
    step s = .next { s with pc := s.pc + 1#16 }

/-- 45 R151: HLT sets `halted` and nothing else; its step leaves `pc` past the HLT byte; then the run loop stops and every
later step is a no-op. No other instruction sets `halted` ("no cancellation mechanism beyond the HLT instruction").
Flags unchanged is the spec's decision D14. -/
def Obligations.HltHaltsTheCore : Prop :=
  encode .hlt = [0xFF#8] ∧ (∀ s : State, exec .hlt s = .next { s with halted := true }) ∧
  (∀ (i : Instr) (s t : State), exec i s = .next t → t.halted ≠ s.halted → i = .hlt) ∧
  ∀ s : State, s.halted = false → s.fatal = none → s.memRead s.pc = 0xFF#8 →
    ∃ t, step s = .next t ∧ t = { s with pc := s.pc + 1#16, halted := true } ∧ step t = .next t ∧
      ∀ n, run n t = .halted t

/-- 60 R160, R166: a step never refuses; a core that is neither halted nor fatal answers a next state or raises
`FatalRegIndex`, and raises it only where the bytes at `pc` decode to an instruction with a register byte 4..255. -/
def Obligations.StepGoesOnOrRaisesFatalRegIndex : Prop :=
  ∀ s : State, s.fatal = none →
    (∃ t, step s = .next t) ∨
    (∃ info i rest, step s = .fault (.fatalRegIndex info) ∧ s.halted = false ∧ i.wellFormed = false ∧
      decode [s.memRead s.pc, s.memRead (s.pc + 1#16), s.memRead (s.pc + 2#16)] = .instr i rest)

/-! ## Arithmetic -/

/-- 40 R81: ADD, with its encoding, its result, its four flags and its frame, for every pair of registers; and the
exception for any other operand bytes. -/
def Obligations.AddWritesSumAndFlags : Prop :=
  (∀ rd rs, encode (.add rd rs) = [0x06#8, rd, rs]) ∧
  (∀ (d e : Reg) (s : State), ∃ t, exec (.add (indexOfReg d) (indexOfReg e)) s = .next t ∧
    t.readReg d = s.readReg d + s.readReg e ∧
    (t.flagZ = true ↔ s.readReg d + s.readReg e = 0x00#8) ∧
    (t.flagC = true ↔ (s.readReg d).toNat + (s.readReg e).toNat > 255) ∧
    t.flagS = (s.readReg d + s.readReg e).getLsbD 7 ∧
    (t.flagO = true ↔ (s.readReg d ^^^ (s.readReg d + s.readReg e)) &&&
      (s.readReg e ^^^ (s.readReg d + s.readReg e)) &&& 0x80#8 ≠ 0x00#8) ∧
    SameRegsBut d s t ∧ SameOutsideAlu s t) ∧
  ∀ (rd rs : Byte) (s : State), 3 < rd.toNat ∨ 3 < rs.toNat →
    ∃ info, exec (.add rd rs) s = .fault (.fatalRegIndex info)

/-- 40 R82: SUB, likewise; C is the borrow. -/
def Obligations.SubWritesDifferenceAndFlags : Prop :=
  (∀ rd rs, encode (.sub rd rs) = [0x07#8, rd, rs]) ∧
  (∀ (d e : Reg) (s : State), ∃ t, exec (.sub (indexOfReg d) (indexOfReg e)) s = .next t ∧
    t.readReg d = s.readReg d - s.readReg e ∧
    (t.flagZ = true ↔ s.readReg d - s.readReg e = 0x00#8) ∧
    (t.flagC = true ↔ (s.readReg d).toNat < (s.readReg e).toNat) ∧
    t.flagS = (s.readReg d - s.readReg e).getLsbD 7 ∧
    (t.flagO = true ↔ (s.readReg d ^^^ s.readReg e) &&&
      (s.readReg d ^^^ (s.readReg d - s.readReg e)) &&& 0x80#8 ≠ 0x00#8) ∧
    SameRegsBut d s t ∧ SameOutsideAlu s t) ∧
  ∀ (rd rs : Byte) (s : State), 3 < rd.toNat ∨ 3 < rs.toNat →
    ∃ info, exec (.sub rd rs) s = .fault (.fatalRegIndex info)

/-- 40 R85: MUL, likewise; unsigned, the low byte is kept, C says the high byte is not 0, O is cleared. -/
def Obligations.MulWritesLowByteAndFlags : Prop :=
  (∀ rd rs, encode (.mul rd rs) = [0x08#8, rd, rs]) ∧
  (∀ (d e : Reg) (s : State), ∃ t, exec (.mul (indexOfReg d) (indexOfReg e)) s = .next t ∧
    (t.readReg d).toNat = (s.readReg d).toNat * (s.readReg e).toNat % 256 ∧
    (t.flagZ = true ↔ t.readReg d = 0x00#8) ∧
    (t.flagC = true ↔ (s.readReg d).toNat * (s.readReg e).toNat > 255) ∧
    t.flagS = (t.readReg d).getLsbD 7 ∧ t.flagO = false ∧
    SameRegsBut d s t ∧ SameOutsideAlu s t) ∧
  ∀ (rd rs : Byte) (s : State), 3 < rd.toNat ∨ 3 < rs.toNat →
    ∃ info, exec (.mul rd rs) s = .fault (.fatalRegIndex info)

/-- 40 R86: CMP writes exactly the flags SUB would write from the same registers, and no register. -/
def Obligations.CmpWritesTheFlagsOfSub : Prop :=
  (∀ rd rs, encode (.cmp rd rs) = [0x0C#8, rd, rs]) ∧
  (∀ (d e : Reg) (s : State), ∃ t u, exec (.cmp (indexOfReg d) (indexOfReg e)) s = .next t ∧
    exec (.sub (indexOfReg d) (indexOfReg e)) s = .next u ∧ t.flags = u.flags ∧
    (t.flagZ = true ↔ s.readReg d - s.readReg e = 0x00#8) ∧
    (t.flagC = true ↔ (s.readReg d).toNat < (s.readReg e).toNat) ∧
    t.flagS = (s.readReg d - s.readReg e).getLsbD 7 ∧
    (t.flagO = true ↔ (s.readReg d ^^^ s.readReg e) &&&
      (s.readReg d ^^^ (s.readReg d - s.readReg e)) &&& 0x80#8 ≠ 0x00#8) ∧
    SameRegs s t ∧ SameOutsideAlu s t) ∧
  ∀ (rd rs : Byte) (s : State), 3 < rd.toNat ∨ 3 < rs.toNat →
    ∃ info, exec (.cmp rd rs) s = .fault (.fatalRegIndex info)

/-- 40 R83, R84: INC and DEC on register A (the spec's decision D13), Carry as it was, Overflow written each time (the
spec's decision D15). -/
def Obligations.IncAndDecChangeA : Prop :=
  encode .inc = [0x04#8] ∧ encode .dec = [0x05#8] ∧
  (∀ s : State, ∃ t, exec .inc s = .next t ∧ t.a = s.a + 1#8 ∧ (t.flagZ = true ↔ s.a = 0xFF#8) ∧
    t.flagC = s.flagC ∧ t.flagS = (s.a + 1#8).getLsbD 7 ∧ (t.flagO = true ↔ s.a = 0x7F#8) ∧
    SameRegsBut .A s t ∧ SameOutsideAlu s t) ∧
  ∀ s : State, ∃ t, exec .dec s = .next t ∧ t.a = s.a - 1#8 ∧ (t.flagZ = true ↔ s.a = 0x01#8) ∧
    t.flagC = s.flagC ∧ t.flagS = (s.a - 1#8).getLsbD 7 ∧ (t.flagO = true ↔ s.a = 0x80#8) ∧
    SameRegsBut .A s t ∧ SameOutsideAlu s t

/-- 40 R88: after CMP, Z says the operands are equal, C says the first is below the second unsigned, and S ≠ O says it
is less in the two's complement reading (general knowledge, 00 R8). -/
def Obligations.CmpFlagsOrderTheOperands : Prop :=
  ∀ (d e : Reg) (s : State), ∃ t, exec (.cmp (indexOfReg d) (indexOfReg e)) s = .next t ∧
    (t.flagZ = true ↔ s.readReg d = s.readReg e) ∧
    (t.flagC = true ↔ (s.readReg d).toNat < (s.readReg e).toNat) ∧
    (t.flagS ≠ t.flagO ↔ (s.readReg d).toInt < (s.readReg e).toInt)

/-- 10 R29, 40 R87: Overflow of ADD, SUB, INC and DEC says that the exact result is outside -128..127 in the two's
complement reading (general knowledge, 00 R8). INC and DEC act on A by the spec's decision D13 and write O by D15. -/
def Obligations.OverflowIsSignedOutOfRange : Prop :=
  (∀ (d e : Reg) (s t : State), exec (.add (indexOfReg d) (indexOfReg e)) s = .next t →
    (t.flagO = true ↔ (s.readReg d).toInt + (s.readReg e).toInt < -128 ∨
      127 < (s.readReg d).toInt + (s.readReg e).toInt)) ∧
  (∀ (d e : Reg) (s t : State), exec (.sub (indexOfReg d) (indexOfReg e)) s = .next t →
    (t.flagO = true ↔ (s.readReg d).toInt - (s.readReg e).toInt < -128 ∨
      127 < (s.readReg d).toInt - (s.readReg e).toInt)) ∧
  (∀ s t : State, exec .inc s = .next t → (t.flagO = true ↔ 127 < s.a.toInt + 1)) ∧
  ∀ s t : State, exec .dec s = .next t → (t.flagO = true ↔ s.a.toInt - 1 < -128)

/-! ## Logic -/

/-- 41 R100, R101, R102: AND, OR and XOR write the bitwise result to the first register, Zero and Sign from it, Carry
and Overflow cleared; bad operand bytes raise the exception. -/
def Obligations.AndOrXorWriteResultAndFlags : Prop :=
  (∀ rd rs, encode (.and rd rs) = [0x18#8, rd, rs] ∧ encode (.or rd rs) = [0x19#8, rd, rs] ∧
    encode (.xor rd rs) = [0x1A#8, rd, rs]) ∧
  (∀ (d e : Reg) (s : State) (i : Instr) (r : Byte),
    (i = .and (indexOfReg d) (indexOfReg e) ∧ r = s.readReg d &&& s.readReg e) ∨
    (i = .or (indexOfReg d) (indexOfReg e) ∧ r = s.readReg d ||| s.readReg e) ∨
    (i = .xor (indexOfReg d) (indexOfReg e) ∧ r = s.readReg d ^^^ s.readReg e) →
    ∃ t, exec i s = .next t ∧ t.readReg d = r ∧ (t.flagZ = true ↔ r = 0x00#8) ∧ t.flagS = r.getLsbD 7 ∧
      t.flagC = false ∧ t.flagO = false ∧ SameRegsBut d s t ∧ SameOutsideAlu s t) ∧
  ∀ (rd rs : Byte) (s : State), 3 < rd.toNat ∨ 3 < rs.toNat →
    ∀ i ∈ [Instr.and rd rs, Instr.or rd rs, Instr.xor rd rs], ∃ info, exec i s = .fault (.fatalRegIndex info)

/-- 41 R103: NOT writes the bitwise complement, with the flags of the other logical instructions. -/
def Obligations.NotWritesComplementAndFlags : Prop :=
  (∀ r, encode (.not r) = [0x1B#8, r]) ∧
  (∀ (d : Reg) (s : State), ∃ t, exec (.not (indexOfReg d)) s = .next t ∧ t.readReg d = ~~~(s.readReg d) ∧
    (t.flagZ = true ↔ s.readReg d = 0xFF#8) ∧ t.flagS = !(s.readReg d).getLsbD 7 ∧
    t.flagC = false ∧ t.flagO = false ∧ SameRegsBut d s t ∧ SameOutsideAlu s t) ∧
  ∀ (r : Byte) (s : State), 3 < r.toNat → ∃ info, exec (.not r) s = .fault (.fatalRegIndex info)

/-! ## Jumps -/

/-- 42 R110 to R121: each jump goes to its target when its condition holds and otherwise leaves `pc` at the post-operand
PC; it changes nothing else (flags: R30, the spec's decision D14). Each jump has the opcode byte of R65. -/
def Obligations.JumpsWriteOnlyPc : Prop :=
  (∀ addr, ∀ p ∈ [(Instr.jmp addr, 0x0D#8), (Instr.jz addr, 0x0E#8), (Instr.jnz addr, 0x0F#8), (Instr.jc addr, 0x10#8),
      (Instr.jnc addr, 0x11#8), (Instr.je addr, 0x12#8), (Instr.jne addr, 0x13#8), (Instr.jl addr, 0x14#8),
      (Instr.jg addr, 0x15#8), (Instr.jb addr, 0x16#8), (Instr.ja addr, 0x17#8)],
    encode p.1 = [p.2, hiByte addr, loByte addr]) ∧
  ∀ (addr : Word) (s : State),
    exec (.jmp addr) s = .next { s with pc := addr } ∧
    exec (.jz addr) s = .next { s with pc := if s.flagZ = true then addr else s.pc } ∧
    exec (.jnz addr) s = .next { s with pc := if s.flagZ = false then addr else s.pc } ∧
    exec (.jc addr) s = .next { s with pc := if s.flagC = true then addr else s.pc } ∧
    exec (.jnc addr) s = .next { s with pc := if s.flagC = false then addr else s.pc } ∧
    exec (.je addr) s = .next { s with pc := if s.flagZ = true then addr else s.pc } ∧
    exec (.jne addr) s = .next { s with pc := if s.flagZ = false then addr else s.pc } ∧
    exec (.jl addr) s = .next { s with pc := if s.flagS ≠ s.flagO then addr else s.pc } ∧
    exec (.jg addr) s = .next { s with pc := if s.flagZ = false ∧ s.flagS = s.flagO then addr else s.pc } ∧
    exec (.jb addr) s = .next { s with pc := if s.flagC = true then addr else s.pc } ∧
    exec (.ja addr) s = .next { s with pc := if s.flagC = false ∧ s.flagZ = false then addr else s.pc }

/-- 42 R122: what each conditional jump decides right after `CMP a, b` (the signed reading is general knowledge,
00 R8; flags unchanged by a jump: the spec's decision D14). `CMP` and then the jump are run on the same state, one after
the other. -/
def Obligations.JumpsAfterCmpCompareTheOperands : Prop :=
  ∀ (d e : Reg) (addr : Word) (s : State), ∃ t, exec (.cmp (indexOfReg d) (indexOfReg e)) s = .next t ∧
    exec (.je addr) t = .next { t with pc := if s.readReg d = s.readReg e then addr else t.pc } ∧
    exec (.jne addr) t = .next { t with pc := if s.readReg d ≠ s.readReg e then addr else t.pc } ∧
    exec (.jb addr) t = .next { t with pc := if (s.readReg d).toNat < (s.readReg e).toNat then addr else t.pc } ∧
    exec (.jnc addr) t = .next { t with pc := if (s.readReg e).toNat ≤ (s.readReg d).toNat then addr else t.pc } ∧
    exec (.ja addr) t = .next { t with pc := if (s.readReg e).toNat < (s.readReg d).toNat then addr else t.pc } ∧
    exec (.jl addr) t = .next { t with pc := if (s.readReg d).toInt < (s.readReg e).toInt then addr else t.pc } ∧
    exec (.jg addr) t = .next { t with pc := if (s.readReg e).toInt < (s.readReg d).toInt then addr else t.pc }

/-- 30 R68, 42 R116, R117, R120: JE, JNE and JB do what JZ, JNZ and JC do, each keeps its own opcode byte, the assembler
emits the byte of the mnemonic written, and a disassembler prints the mnemonic of the byte. -/
def Obligations.AliasesDoTheSameWithOwnOpcodes : Prop :=
  (∀ p ∈ [("JE", 0x12#8), ("JZ", 0x0E#8), ("JNE", 0x13#8), ("JNZ", 0x0F#8), ("JB", 0x16#8), ("JC", 0x10#8)],
    opcodeMnemonic p.2 = some p.1 ∧ ∃ f, mnemonicForm p.1.toList = some f ∧
      ∀ labels token addr, targetOperand labels token = .ok addr →
        (lineInstr labels f [token]).map encode = .ok [p.2, hiByte addr, loByte addr]) ∧
  ∀ (addr : Word) (s : State),
    exec (.je addr) s = exec (.jz addr) s ∧ opcodeOf (.je addr) = 0x12#8 ∧ opcodeOf (.jz addr) = 0x0E#8 ∧
    exec (.jne addr) s = exec (.jnz addr) s ∧ opcodeOf (.jne addr) = 0x13#8 ∧ opcodeOf (.jnz addr) = 0x0F#8 ∧
    exec (.jb addr) s = exec (.jc addr) s ∧ opcodeOf (.jb addr) = 0x16#8 ∧ opcodeOf (.jc addr) = 0x10#8

/-! ## Stack and subroutines -/

/-- 43 R130: PUSH decrements `sp` mod 2^16 and stores the register's value there; nothing else changes (wrap: the spec's
decision D4; flags: D14). -/
def Obligations.PushStoresBelowTheStackPointer : Prop :=
  (∀ r, encode (.push r) = [0x1C#8, r]) ∧
  ∀ (r : Reg) (s : State), ∃ t, exec (.push (indexOfReg r)) s = .next t ∧ t.sp = s.sp - 1#16 ∧
    t.memRead (s.sp - 1#16) = s.readReg r ∧ SameMemoryOutside [s.sp - 1#16] s t ∧ SameRegs s t ∧ t.pc = s.pc ∧
    t.flags = s.flags ∧ SameStops s t

/-- 43 R131: POP loads the byte at `sp` and increments `sp` mod 2^16; the cell keeps its byte (wrap: the spec's decision
D4; flags: D14). -/
def Obligations.PopLoadsAtTheStackPointer : Prop :=
  (∀ r, encode (.pop r) = [0x1D#8, r]) ∧
  ∀ (r : Reg) (s : State), ∃ t, exec (.pop (indexOfReg r)) s = .next t ∧ t.sp = s.sp + 1#16 ∧
    t.readReg r = s.memRead s.sp ∧ SameRegsBut r s t ∧ SameMemory s t ∧ t.pc = s.pc ∧
    t.flags = s.flags ∧ SameStops s t

/-- 43 R131 (source §8): PUSH r then POP q leaves `q` with `r`'s value before the push and `sp` as it was, whatever `sp`
holds (wrap: the spec's decision D4). -/
def Obligations.PushThenPopRoundTrips : Prop :=
  ∀ (r q : Reg) (s : State), ∃ t u, exec (.push (indexOfReg r)) s = .next t ∧
    exec (.pop (indexOfReg q)) t = .next u ∧ u.readReg q = s.readReg r ∧ u.sp = s.sp ∧ SameRegsBut q s u

/-- 43 R132, 20 R45: CALL stores the high byte of the post-operand PC at `sp - 1` and the low byte at `sp - 2`, leaves
`sp` at the low byte and jumps (wrap: the spec's decision D4; flags: D14). -/
def Obligations.CallPushesTheReturnAddress : Prop :=
  (∀ addr, encode (.call addr) = [0x1E#8, hiByte addr, loByte addr]) ∧
  ∀ (addr : Word) (s : State), ∃ t, exec (.call addr) s = .next t ∧ t.pc = addr ∧ t.sp = s.sp - 2#16 ∧
    t.memRead t.sp = s.pc.extractLsb' 0 8 ∧ t.memRead (t.sp + 1#16) = s.pc.extractLsb' 8 8 ∧
    SameMemoryOutside [s.sp - 1#16, s.sp - 2#16] s t ∧ SameRegs s t ∧ t.flags = s.flags ∧ SameStops s t

/-- 43 R133, 90 C1: RET takes the low byte from `sp`, the high byte from `sp + 1`, and jumps there (wrap: the spec's
decision D4; flags: D14). -/
def Obligations.RetPopsTheReturnAddress : Prop :=
  encode .ret = [0x1F#8] ∧
  ∀ s : State, exec .ret s =
    .next { s with pc := s.memRead (s.sp + 1#16) ++ s.memRead s.sp, sp := s.sp + 2#16 }

/-- 43 R133 (source §8): "PC after RET equals the PC immediately following the CALL instruction's operand bytes", from
the CALL's own step through any run that keeps `sp` and the two stack bytes; `sp` is back too (pop order: 90 C1; wrap:
the spec's decision D4). -/
def Obligations.CallThenRetRoundTrips : Prop :=
  ∀ (addr : Word) (s : State), ∃ t, exec (.call addr) s = .next t ∧
    ∀ u : State, u.sp = t.sp → u.memRead t.sp = t.memRead t.sp → u.memRead (t.sp + 1#16) = t.memRead (t.sp + 1#16) →
      ∃ v, exec .ret u = .next v ∧ v.pc = s.pc ∧ v.sp = s.sp

/-! ## Data transfer -/

/-- 44 R140, R141, R142: LDI and LDA write A, LDB writes B, and nothing else changes (the spec's decisions D11, D12;
flags: D14). Their encodings are those of 30 R61, R65. -/
def Obligations.LoadsWriteOneRegister : Prop :=
  (∀ imm8, encode (.ldi imm8) = [0x03#8, imm8]) ∧
  (∀ addr, encode (.lda addr) = [0x01#8, hiByte addr, loByte addr] ∧
    encode (.ldb addr) = [0x02#8, hiByte addr, loByte addr]) ∧
  (∀ (imm8 : Byte) (s : State), exec (.ldi imm8) s = .next { s with a := imm8 }) ∧
  (∀ (addr : Word) (s : State), exec (.lda addr) s = .next { s with a := s.memRead addr }) ∧
  ∀ (addr : Word) (s : State), exec (.ldb addr) s = .next { s with b := s.memRead addr }

/-- 44 R143, R144: STA stores A and STB stores B at the address, and nothing else changes (the spec's decision D12; flags:
D14). Their encodings are those of 30 R61, R65. -/
def Obligations.StoresWriteOneByte : Prop :=
  (∀ addr, encode (.sta addr) = [0x09#8, hiByte addr, loByte addr] ∧
    encode (.stb addr) = [0x0A#8, hiByte addr, loByte addr]) ∧
  ∀ (addr : Word) (s : State) (i : Instr) (v : Byte), (i = .sta addr ∧ v = s.a) ∨ (i = .stb addr ∧ v = s.b) →
    ∃ t, exec i s = .next t ∧ t.memRead addr = v ∧ SameMemoryOutside [addr] s t ∧
      { t with mem := s.mem } = s

/-- 44 R145: MOV copies the second register into the first, and nothing else changes (the spec's decision D12; flags:
D14). Its encoding is that of 30 R61, R65. -/
def Obligations.MovCopiesTheSecondRegister : Prop :=
  (∀ rd rs, encode (.mov rd rs) = [0x0B#8, rd, rs]) ∧
  ∀ (d e : Reg) (s : State), ∃ t, exec (.mov (indexOfReg d) (indexOfReg e)) s = .next t ∧
    t.readReg d = s.readReg e ∧ SameRegsBut d s t ∧ t.pc = s.pc ∧ t.sp = s.sp ∧ t.flags = s.flags ∧
    SameStops s t ∧ SameMemory s t

/-! ## The exception -/

/-- 30 R62, 10 R23: "A value 4..255 is not a register": the bytes 0..3 select A..D, no other byte selects one, and an
instruction with any other register byte raises `FatalRegIndex` and answers no state. -/
def Obligations.BadRegisterByteRaisesFatal : Prop :=
  (indexOfReg .A = 0x00#8 ∧ indexOfReg .B = 0x01#8 ∧ indexOfReg .C = 0x02#8 ∧ indexOfReg .D = 0x03#8) ∧
  (∀ (index : Byte) (r : Reg), regOfIndex index = some r ↔ index = indexOfReg r) ∧
  (∀ index : Byte, regOfIndex index = none ↔ 4 ≤ index.toNat) ∧
  (∀ index : Byte, registerByteOk index = false ↔ 4 ≤ index.toNat) ∧
  ∀ (i : Instr) (s : State), i.wellFormed = false → ∃ info, exec i s = .fault (.fatalRegIndex info)

/-- 60 R161, R162: the record is (ipc, op, index), `ipc` the address of the opcode byte, `rd` checked before `rs` (the
spec's decisions D16, D17). `s` is the state after the fetch of an instruction at `ipc`. -/
def Obligations.FatalRecordNamesTheFirstBadByte : Prop :=
  ∀ (ipc : Word) (rd rs : Byte) (s : State),
    (s.pc = ipc + 3#16 →
      (4 ≤ rd.toNat → ∀ p ∈ [(Instr.add rd rs, 0x06#8), (Instr.sub rd rs, 0x07#8), (Instr.mul rd rs, 0x08#8),
          (Instr.mov rd rs, 0x0B#8), (Instr.cmp rd rs, 0x0C#8), (Instr.and rd rs, 0x18#8), (Instr.or rd rs, 0x19#8),
          (Instr.xor rd rs, 0x1A#8)], exec p.1 s = .fault (.fatalRegIndex ⟨ipc, p.2, rd⟩)) ∧
      (rd.toNat ≤ 3 → 4 ≤ rs.toNat → ∀ p ∈ [(Instr.add rd rs, 0x06#8), (Instr.sub rd rs, 0x07#8),
          (Instr.mul rd rs, 0x08#8), (Instr.mov rd rs, 0x0B#8), (Instr.cmp rd rs, 0x0C#8), (Instr.and rd rs, 0x18#8),
          (Instr.or rd rs, 0x19#8), (Instr.xor rd rs, 0x1A#8)], exec p.1 s = .fault (.fatalRegIndex ⟨ipc, p.2, rs⟩))) ∧
    (s.pc = ipc + 2#16 → 4 ≤ rd.toNat → ∀ p ∈ [(Instr.not rd, 0x1B#8), (Instr.push rd, 0x1C#8), (Instr.pop rd, 0x1D#8)],
      exec p.1 s = .fault (.fatalRegIndex ⟨ipc, p.2, rd⟩))

/-- 60 R160: "No other instruction and no other operand value can raise anything": an instruction whose register bytes
name registers answers a next state from every state. -/
def Obligations.WellFormedInstructionsComplete : Prop :=
  ∀ (i : Instr) (s : State), i.wellFormed = true → ∃ t, exec i s = .next t

/-- 60 R163, 10 R34: after a step that raises `FatalRegIndex` the core is in the fatal state with that record for ever:
however often the host's loop turns, the record stays and no step exists. The record is the spec's decision D17; the
state that carries it is the model's reading (log entry 1), of which only `fatal` is used here. -/
def Obligations.FatalStateIsTerminal : Prop :=
  ∀ (s : State) (info : FatalInfo) (n : Nat), step s = .fault (.fatalRegIndex info) →
    (hostTurns (n + 1) s).fatal = some info ∧ step (hostTurns (n + 1) s) = .fault (.coreInFatalState info)

/-! ## Rules about every instruction -/

/-- 10 R28, 43 R134: `sp` is written only by PUSH, POP, CALL and RET. -/
def Obligations.OnlyStackInstructionsMoveSp : Prop :=
  ∀ (i : Instr) (s t : State), exec i s = .next t → t.sp ≠ s.sp →
    (∃ r, i = .push r) ∨ (∃ r, i = .pop r) ∨ (∃ addr, i = .call addr) ∨ i = .ret

/-- 20 R43: memory is written only by STA, STB, PUSH and CALL; every other instruction leaves all of it (STA, STB: the
spec's decision D12). -/
def Obligations.OnlyStoresAndPushesWriteMemory : Prop :=
  ∀ (i : Instr) (s t : State), exec i s = .next t → t.mem ≠ s.mem →
    (∃ addr, i = .sta addr) ∨ (∃ addr, i = .stb addr) ∨ (∃ r, i = .push r) ∨ (∃ addr, i = .call addr)

/-- 10 R30: FLAGS is written only by ADD, SUB, CMP, INC, DEC, MUL, AND, OR, XOR and NOT, and Carry by neither INC nor
DEC (the unchanged row is the spec's decision D14). -/
def Obligations.OnlyAluInstructionsWriteFlags : Prop :=
  ∀ (i : Instr) (s t : State), exec i s = .next t →
    (t.flags ≠ s.flags → opcodeOf i ∈ [0x04#8, 0x05#8, 0x06#8, 0x07#8, 0x08#8, 0x0C#8, 0x18#8, 0x19#8, 0x1A#8, 0x1B#8]) ∧
    (t.flagC ≠ s.flagC → opcodeOf i ∈ [0x06#8, 0x07#8, 0x08#8, 0x0C#8, 0x18#8, 0x19#8, 0x1A#8, 0x1B#8])

/-- 10 R31: no instruction writes the reserved bits 7:4 of FLAGS (the spec's decision D10). -/
def Obligations.ReservedFlagBitsAreNeverWritten : Prop :=
  ∀ (i : Instr) (s t : State), exec i s = .next t → SameReserved s t

/-- 10 R25: an instruction leaves `pc` at the post-operand PC, except a jump, CALL and RET. -/
def Obligations.OnlyTransfersWritePc : Prop :=
  ∀ (i : Instr) (s t : State), exec i s = .next t → t.pc ≠ s.pc →
    (0x0D ≤ (opcodeOf i).toNat ∧ (opcodeOf i).toNat ≤ 0x17) ∨ (∃ addr, i = .call addr) ∨ i = .ret

/-- 10 R33, R34: a step never clears `halted`, and never enters or leaves the fatal state while it answers a next
state. -/
def Obligations.StepsNeverClearHalted : Prop :=
  ∀ s t : State, step s = .next t → (s.halted = true → t.halted = true) ∧ t.fatal = s.fatal

/-! ## The invariant -/

/-- The invariant holds at reset: memory canonical, reserved flag bits clear (the spec's decision D10), no halt record. -/
def Obligations.ResetMeetsTheInvariant : Prop := State.reset.inv = true

/-- Every step keeps the invariant, from every state that meets it: memory stays in canonical form (20 R40), FLAGS bits
7:4 read 0 (10 R31, the spec's decision D10), and the halt record is held only by a halted core and names an undefined opcode (45 R152, log
entry 3). -/
def Obligations.StepKeepsTheInvariant : Prop :=
  ∀ s t : State, s.inv = true → step s = .next t → t.inv = true

/-- 10 R31: "No instruction can observe them": two cores that differ only in FLAGS bits 7:4 take the same steps, and
stay equal but for those bits (that nothing writes them is the spec's decision D10). -/
def Obligations.ReservedFlagBitsAreUnobservable : Prop :=
  ∀ (s : State) (f : Byte), f.extractLsb' 0 4 = s.flags.extractLsb' 0 4 →
    (∀ t, step s = .next t → ∃ g : Byte, step { s with flags := f } = .next { t with flags := g } ∧
      g.extractLsb' 0 4 = t.flags.extractLsb' 0 4) ∧
    ∀ r, step s = .fault r → step { s with flags := f } = .fault r

/-! ## Memory transactions -/

/-- 20 R43, R50, R52: memory after a step is memory before it with the step's transactions applied in order (the port and
the order are the spec's decisions D2 and D21). -/
def Obligations.StepMemoryIsItsTransactions : Prop :=
  ∀ s t : State, step s = .next t → t.mem = applyTransactions s.mem (stepTransactions s)

/-- 20 R52, R54: every read of a step, fetch or data, returns the byte that memory holds before the step; a step never
reads a byte after writing it (the spec's decisions D21, D22). -/
def Obligations.StepReadsMemoryBeforeItWrites : Prop :=
  ∀ (s : State) (addr : Word) (data : Byte), .read addr data ∈ stepTransactions s → data = s.memRead addr

/-- 20 R54: STA into the opcode byte that follows it: the very next fetch reads the byte stored (STA: the spec's decision
D12; wrap: D4). -/
def Obligations.StoredByteIsFetchedNext : Prop :=
  ∀ (s : State) (rest : List Byte), s.halted = false → s.fatal = none →
    decode [s.memRead s.pc, s.memRead (s.pc + 1#16), s.memRead (s.pc + 2#16)] = .instr (.sta (s.pc + 3#16)) rest →
    ∃ t, step s = .next t ∧ t.pc = s.pc + 3#16 ∧ (fetchByte t).1 = s.a

/-! ## Runs -/

/-- 70 R184: a run ends in one way: once halted or fatal it is so for any larger number of steps, with the same final
state or record. -/
def Obligations.EndedRunStaysEnded : Prop :=
  ∀ (n k : Nat) (s t : State) (info : FatalInfo),
    (run n s = .halted t → run (n + k) s = .halted t) ∧ (run n s = .fatal info → run (n + k) s = .fatal info)

/-- 70 R188: a JMP to its own address is a hang. -/
def Obligations.JumpToItselfHangs : Prop :=
  ∀ (s : State) (rest : List Byte), s.halted = false → s.fatal = none →
    decode [s.memRead s.pc, s.memRead (s.pc + 1#16), s.memRead (s.pc + 2#16)] = .instr (.jmp s.pc) rest → Hangs s

/-- 45 R150 (corner case), 70 R188: where every cell is 00 the core executes NOPs for ever, round the top of memory
(wrap: the spec's decision D4). -/
def Obligations.ZeroMemoryHangs : Prop :=
  ∀ (s : State) (n : Nat), s.halted = false → s.fatal = none → (∀ k : Word, s.memRead k = 0x00#8) →
    run n s = .unfinished { s with pc := s.pc + BitVec.ofNat 16 n }

/-- Log entry 8: a table word that decodes is what the next step runs, from any state and at any `pc`. -/
def Obligations.PlacedWordIsWhatStepRuns : Prop :=
  ∀ (s : State) (nbits w : Nat) (i : Instr), decodeTableWord nbits w = some i →
    step (s.withFetchWord nbits w) =
      exec i { s.withFetchWord nbits w with pc := s.pc + BitVec.ofNat 16 (lengthOf i) }

/-! ## The assembly language -/

/-- 30 R71, R74: every line emits exactly the bytes of its one instruction, so the image of a source is as long as the
sum of the lengths that assign the labels' addresses. -/
def Obligations.AssembledLengthIsTheSumOfLines : Prop :=
  ∀ (source : List (List Char)) (labels : List (List Char × Nat)) (lines : List SourceLine) (bytes : List Byte),
    parseLines source = .ok lines → emitLines labels lines = .ok bytes →
    bytes.length = (lines.map lineLength).sum

/-- 30 R65, R68, R73: the mnemonic table has a row for each of the 33 opcodes of the map; no two rows share a mnemonic or
an opcode byte; and each mnemonic assembles to the format and instruction of its own opcode byte, which is printed as
that mnemonic. -/
def Obligations.EachOpcodeHasItsOwnMnemonic : Prop :=
  mnemonicTable.length = 33 ∧ (mnemonicTable.map Prod.fst).Nodup ∧ (mnemonicTable.map Prod.snd).Nodup ∧
  (∀ row ∈ mnemonicTable, opcodeMnemonic row.2 = some row.1 ∧ mnemonicForm row.1.toList = opcodeForm row.2) ∧
  ∀ op : Byte, (opcodeForm op).isSome = (opcodeMnemonic op).isSome
end

