-- ==== Sys2Proof/Laws/State.lean ====
section
/-! SUPPORT. One lemma per field per update of State, so that no proof unfolds a record update. -/

namespace Sys2Proof.Machine

variable (s : State)
/-! ## memWrite -/
@[simp] theorem State.memWrite_a (addr : Word) (v : Byte) : (s.memWrite addr v).a = s.a := rfl
@[simp] theorem State.memWrite_b (addr : Word) (v : Byte) : (s.memWrite addr v).b = s.b := rfl
@[simp] theorem State.memWrite_c (addr : Word) (v : Byte) : (s.memWrite addr v).c = s.c := rfl
@[simp] theorem State.memWrite_d (addr : Word) (v : Byte) : (s.memWrite addr v).d = s.d := rfl
@[simp] theorem State.memWrite_pc (addr : Word) (v : Byte) : (s.memWrite addr v).pc = s.pc := rfl
@[simp] theorem State.memWrite_sp (addr : Word) (v : Byte) : (s.memWrite addr v).sp = s.sp := rfl
@[simp] theorem State.memWrite_flags (addr : Word) (v : Byte) : (s.memWrite addr v).flags = s.flags := rfl
@[simp] theorem State.memWrite_halted (addr : Word) (v : Byte) : (s.memWrite addr v).halted = s.halted := rfl
@[simp] theorem State.memWrite_implicitHaltOp (addr : Word) (v : Byte) : (s.memWrite addr v).implicitHaltOp = s.implicitHaltOp := rfl
@[simp] theorem State.memWrite_fatal (addr : Word) (v : Byte) : (s.memWrite addr v).fatal = s.fatal := rfl
@[simp] theorem State.memWrite_mem (addr : Word) (v : Byte) : (s.memWrite addr v).mem = Memory.write s.mem addr.toNat v := rfl
@[simp] theorem State.memWrite_readReg (addr : Word) (v : Byte) (q : Reg) : (s.memWrite addr v).readReg q = s.readReg q := by cases q <;> rfl
@[simp] theorem State.memWrite_flagZ (addr : Word) (v : Byte) : (s.memWrite addr v).flagZ = s.flagZ := rfl
@[simp] theorem State.memWrite_flagC (addr : Word) (v : Byte) : (s.memWrite addr v).flagC = s.flagC := rfl
@[simp] theorem State.memWrite_flagS (addr : Word) (v : Byte) : (s.memWrite addr v).flagS = s.flagS := rfl
@[simp] theorem State.memWrite_flagO (addr : Word) (v : Byte) : (s.memWrite addr v).flagO = s.flagO := rfl

/-! ## jump -/
@[simp] theorem State.jump_a (target : Word) : (s.jump target).a = s.a := rfl
@[simp] theorem State.jump_b (target : Word) : (s.jump target).b = s.b := rfl
@[simp] theorem State.jump_c (target : Word) : (s.jump target).c = s.c := rfl
@[simp] theorem State.jump_d (target : Word) : (s.jump target).d = s.d := rfl
@[simp] theorem State.jump_pc (target : Word) : (s.jump target).pc = target := rfl
@[simp] theorem State.jump_sp (target : Word) : (s.jump target).sp = s.sp := rfl
@[simp] theorem State.jump_flags (target : Word) : (s.jump target).flags = s.flags := rfl
@[simp] theorem State.jump_halted (target : Word) : (s.jump target).halted = s.halted := rfl
@[simp] theorem State.jump_implicitHaltOp (target : Word) : (s.jump target).implicitHaltOp = s.implicitHaltOp := rfl
@[simp] theorem State.jump_fatal (target : Word) : (s.jump target).fatal = s.fatal := rfl
@[simp] theorem State.jump_mem (target : Word) : (s.jump target).mem = s.mem := rfl
@[simp] theorem State.jump_readReg (target : Word) (q : Reg) : (s.jump target).readReg q = s.readReg q := by cases q <;> rfl
@[simp] theorem State.jump_memRead (target : Word) (addr : Word) : (s.jump target).memRead addr = s.memRead addr := rfl
@[simp] theorem State.jump_flagZ (target : Word) : (s.jump target).flagZ = s.flagZ := rfl
@[simp] theorem State.jump_flagC (target : Word) : (s.jump target).flagC = s.flagC := rfl
@[simp] theorem State.jump_flagS (target : Word) : (s.jump target).flagS = s.flagS := rfl
@[simp] theorem State.jump_flagO (target : Word) : (s.jump target).flagO = s.flagO := rfl

/-! ## pushByte -/
@[simp] theorem State.pushByte_a (v : Byte) : (s.pushByte v).a = s.a := rfl
@[simp] theorem State.pushByte_b (v : Byte) : (s.pushByte v).b = s.b := rfl
@[simp] theorem State.pushByte_c (v : Byte) : (s.pushByte v).c = s.c := rfl
@[simp] theorem State.pushByte_d (v : Byte) : (s.pushByte v).d = s.d := rfl
@[simp] theorem State.pushByte_pc (v : Byte) : (s.pushByte v).pc = s.pc := rfl
@[simp] theorem State.pushByte_sp (v : Byte) : (s.pushByte v).sp = s.sp - 1#16 := rfl
@[simp] theorem State.pushByte_flags (v : Byte) : (s.pushByte v).flags = s.flags := rfl
@[simp] theorem State.pushByte_halted (v : Byte) : (s.pushByte v).halted = s.halted := rfl
@[simp] theorem State.pushByte_implicitHaltOp (v : Byte) : (s.pushByte v).implicitHaltOp = s.implicitHaltOp := rfl
@[simp] theorem State.pushByte_fatal (v : Byte) : (s.pushByte v).fatal = s.fatal := rfl
@[simp] theorem State.pushByte_mem (v : Byte) : (s.pushByte v).mem = Memory.write s.mem (s.sp - 1#16).toNat v := rfl
@[simp] theorem State.pushByte_readReg (v : Byte) (q : Reg) : (s.pushByte v).readReg q = s.readReg q := by cases q <;> rfl
@[simp] theorem State.pushByte_flagZ (v : Byte) : (s.pushByte v).flagZ = s.flagZ := rfl
@[simp] theorem State.pushByte_flagC (v : Byte) : (s.pushByte v).flagC = s.flagC := rfl
@[simp] theorem State.pushByte_flagS (v : Byte) : (s.pushByte v).flagS = s.flagS := rfl
@[simp] theorem State.pushByte_flagO (v : Byte) : (s.pushByte v).flagO = s.flagO := rfl

/-! ## popByte -/
@[simp] theorem State.popByte_a : s.popByte.2.a = s.a := rfl
@[simp] theorem State.popByte_b : s.popByte.2.b = s.b := rfl
@[simp] theorem State.popByte_c : s.popByte.2.c = s.c := rfl
@[simp] theorem State.popByte_d : s.popByte.2.d = s.d := rfl
@[simp] theorem State.popByte_pc : s.popByte.2.pc = s.pc := rfl
@[simp] theorem State.popByte_sp : s.popByte.2.sp = s.sp + 1#16 := rfl
@[simp] theorem State.popByte_flags : s.popByte.2.flags = s.flags := rfl
@[simp] theorem State.popByte_halted : s.popByte.2.halted = s.halted := rfl
@[simp] theorem State.popByte_implicitHaltOp : s.popByte.2.implicitHaltOp = s.implicitHaltOp := rfl
@[simp] theorem State.popByte_fatal : s.popByte.2.fatal = s.fatal := rfl
@[simp] theorem State.popByte_mem : s.popByte.2.mem = s.mem := rfl
@[simp] theorem State.popByte_readReg (q : Reg) : s.popByte.2.readReg q = s.readReg q := by cases q <;> rfl
@[simp] theorem State.popByte_memRead (addr : Word) : s.popByte.2.memRead addr = s.memRead addr := rfl
@[simp] theorem State.popByte_flagZ : s.popByte.2.flagZ = s.flagZ := rfl
@[simp] theorem State.popByte_flagC : s.popByte.2.flagC = s.flagC := rfl
@[simp] theorem State.popByte_flagS : s.popByte.2.flagS = s.flagS := rfl
@[simp] theorem State.popByte_flagO : s.popByte.2.flagO = s.flagO := rfl

/-! ## halt -/
@[simp] theorem State.halt_a : s.halt.a = s.a := rfl
@[simp] theorem State.halt_b : s.halt.b = s.b := rfl
@[simp] theorem State.halt_c : s.halt.c = s.c := rfl
@[simp] theorem State.halt_d : s.halt.d = s.d := rfl
@[simp] theorem State.halt_pc : s.halt.pc = s.pc := rfl
@[simp] theorem State.halt_sp : s.halt.sp = s.sp := rfl
@[simp] theorem State.halt_flags : s.halt.flags = s.flags := rfl
@[simp] theorem State.halt_halted : s.halt.halted = true := rfl
@[simp] theorem State.halt_implicitHaltOp : s.halt.implicitHaltOp = s.implicitHaltOp := rfl
@[simp] theorem State.halt_fatal : s.halt.fatal = s.fatal := rfl
@[simp] theorem State.halt_mem : s.halt.mem = s.mem := rfl
@[simp] theorem State.halt_readReg (q : Reg) : s.halt.readReg q = s.readReg q := by cases q <;> rfl
@[simp] theorem State.halt_memRead (addr : Word) : s.halt.memRead addr = s.memRead addr := rfl
@[simp] theorem State.halt_flagZ : s.halt.flagZ = s.flagZ := rfl
@[simp] theorem State.halt_flagC : s.halt.flagC = s.flagC := rfl
@[simp] theorem State.halt_flagS : s.halt.flagS = s.flagS := rfl
@[simp] theorem State.halt_flagO : s.halt.flagO = s.flagO := rfl

/-! ## implicitHalt -/
@[simp] theorem State.implicitHalt_a (op : Byte) : (s.implicitHalt op).a = s.a := rfl
@[simp] theorem State.implicitHalt_b (op : Byte) : (s.implicitHalt op).b = s.b := rfl
@[simp] theorem State.implicitHalt_c (op : Byte) : (s.implicitHalt op).c = s.c := rfl
@[simp] theorem State.implicitHalt_d (op : Byte) : (s.implicitHalt op).d = s.d := rfl
@[simp] theorem State.implicitHalt_pc (op : Byte) : (s.implicitHalt op).pc = s.pc := rfl
@[simp] theorem State.implicitHalt_sp (op : Byte) : (s.implicitHalt op).sp = s.sp := rfl
@[simp] theorem State.implicitHalt_flags (op : Byte) : (s.implicitHalt op).flags = s.flags := rfl
@[simp] theorem State.implicitHalt_halted (op : Byte) : (s.implicitHalt op).halted = true := rfl
@[simp] theorem State.implicitHalt_implicitHaltOp (op : Byte) : (s.implicitHalt op).implicitHaltOp = some op := rfl
@[simp] theorem State.implicitHalt_fatal (op : Byte) : (s.implicitHalt op).fatal = s.fatal := rfl
@[simp] theorem State.implicitHalt_mem (op : Byte) : (s.implicitHalt op).mem = s.mem := rfl
@[simp] theorem State.implicitHalt_readReg (op : Byte) (q : Reg) : (s.implicitHalt op).readReg q = s.readReg q := by cases q <;> rfl
@[simp] theorem State.implicitHalt_memRead (op : Byte) (addr : Word) : (s.implicitHalt op).memRead addr = s.memRead addr := rfl
@[simp] theorem State.implicitHalt_flagZ (op : Byte) : (s.implicitHalt op).flagZ = s.flagZ := rfl
@[simp] theorem State.implicitHalt_flagC (op : Byte) : (s.implicitHalt op).flagC = s.flagC := rfl
@[simp] theorem State.implicitHalt_flagS (op : Byte) : (s.implicitHalt op).flagS = s.flagS := rfl
@[simp] theorem State.implicitHalt_flagO (op : Byte) : (s.implicitHalt op).flagO = s.flagO := rfl

/-! ## enterFatal -/
@[simp] theorem State.enterFatal_a (info : FatalInfo) : (s.enterFatal info).a = s.a := rfl
@[simp] theorem State.enterFatal_b (info : FatalInfo) : (s.enterFatal info).b = s.b := rfl
@[simp] theorem State.enterFatal_c (info : FatalInfo) : (s.enterFatal info).c = s.c := rfl
@[simp] theorem State.enterFatal_d (info : FatalInfo) : (s.enterFatal info).d = s.d := rfl
@[simp] theorem State.enterFatal_pc (info : FatalInfo) : (s.enterFatal info).pc = s.pc := rfl
@[simp] theorem State.enterFatal_sp (info : FatalInfo) : (s.enterFatal info).sp = s.sp := rfl
@[simp] theorem State.enterFatal_flags (info : FatalInfo) : (s.enterFatal info).flags = s.flags := rfl
@[simp] theorem State.enterFatal_halted (info : FatalInfo) : (s.enterFatal info).halted = s.halted := rfl
@[simp] theorem State.enterFatal_implicitHaltOp (info : FatalInfo) : (s.enterFatal info).implicitHaltOp = s.implicitHaltOp := rfl
@[simp] theorem State.enterFatal_fatal (info : FatalInfo) : (s.enterFatal info).fatal = some info := rfl
@[simp] theorem State.enterFatal_mem (info : FatalInfo) : (s.enterFatal info).mem = s.mem := rfl
@[simp] theorem State.enterFatal_readReg (info : FatalInfo) (q : Reg) : (s.enterFatal info).readReg q = s.readReg q := by cases q <;> rfl
@[simp] theorem State.enterFatal_memRead (info : FatalInfo) (addr : Word) : (s.enterFatal info).memRead addr = s.memRead addr := rfl
@[simp] theorem State.enterFatal_flagZ (info : FatalInfo) : (s.enterFatal info).flagZ = s.flagZ := rfl
@[simp] theorem State.enterFatal_flagC (info : FatalInfo) : (s.enterFatal info).flagC = s.flagC := rfl
@[simp] theorem State.enterFatal_flagS (info : FatalInfo) : (s.enterFatal info).flagS = s.flagS := rfl
@[simp] theorem State.enterFatal_flagO (info : FatalInfo) : (s.enterFatal info).flagO = s.flagO := rfl

/-! ## setZ -/
@[simp] theorem State.setZ_a (v : Bool) : (s.setZ v).a = s.a := rfl
@[simp] theorem State.setZ_b (v : Bool) : (s.setZ v).b = s.b := rfl
@[simp] theorem State.setZ_c (v : Bool) : (s.setZ v).c = s.c := rfl
@[simp] theorem State.setZ_d (v : Bool) : (s.setZ v).d = s.d := rfl
@[simp] theorem State.setZ_pc (v : Bool) : (s.setZ v).pc = s.pc := rfl
@[simp] theorem State.setZ_sp (v : Bool) : (s.setZ v).sp = s.sp := rfl
@[simp] theorem State.setZ_flags (v : Bool) : (s.setZ v).flags = setFlagBit 0 v s.flags := rfl
@[simp] theorem State.setZ_halted (v : Bool) : (s.setZ v).halted = s.halted := rfl
@[simp] theorem State.setZ_implicitHaltOp (v : Bool) : (s.setZ v).implicitHaltOp = s.implicitHaltOp := rfl
@[simp] theorem State.setZ_fatal (v : Bool) : (s.setZ v).fatal = s.fatal := rfl
@[simp] theorem State.setZ_mem (v : Bool) : (s.setZ v).mem = s.mem := rfl
@[simp] theorem State.setZ_readReg (v : Bool) (q : Reg) : (s.setZ v).readReg q = s.readReg q := by cases q <;> rfl
@[simp] theorem State.setZ_memRead (v : Bool) (addr : Word) : (s.setZ v).memRead addr = s.memRead addr := rfl

/-! ## setC -/
@[simp] theorem State.setC_a (v : Bool) : (s.setC v).a = s.a := rfl
@[simp] theorem State.setC_b (v : Bool) : (s.setC v).b = s.b := rfl
@[simp] theorem State.setC_c (v : Bool) : (s.setC v).c = s.c := rfl
@[simp] theorem State.setC_d (v : Bool) : (s.setC v).d = s.d := rfl
@[simp] theorem State.setC_pc (v : Bool) : (s.setC v).pc = s.pc := rfl
@[simp] theorem State.setC_sp (v : Bool) : (s.setC v).sp = s.sp := rfl
@[simp] theorem State.setC_flags (v : Bool) : (s.setC v).flags = setFlagBit 1 v s.flags := rfl
@[simp] theorem State.setC_halted (v : Bool) : (s.setC v).halted = s.halted := rfl
@[simp] theorem State.setC_implicitHaltOp (v : Bool) : (s.setC v).implicitHaltOp = s.implicitHaltOp := rfl
@[simp] theorem State.setC_fatal (v : Bool) : (s.setC v).fatal = s.fatal := rfl
@[simp] theorem State.setC_mem (v : Bool) : (s.setC v).mem = s.mem := rfl
@[simp] theorem State.setC_readReg (v : Bool) (q : Reg) : (s.setC v).readReg q = s.readReg q := by cases q <;> rfl
@[simp] theorem State.setC_memRead (v : Bool) (addr : Word) : (s.setC v).memRead addr = s.memRead addr := rfl

/-! ## setS -/
@[simp] theorem State.setS_a (v : Bool) : (s.setS v).a = s.a := rfl
@[simp] theorem State.setS_b (v : Bool) : (s.setS v).b = s.b := rfl
@[simp] theorem State.setS_c (v : Bool) : (s.setS v).c = s.c := rfl
@[simp] theorem State.setS_d (v : Bool) : (s.setS v).d = s.d := rfl
@[simp] theorem State.setS_pc (v : Bool) : (s.setS v).pc = s.pc := rfl
@[simp] theorem State.setS_sp (v : Bool) : (s.setS v).sp = s.sp := rfl
@[simp] theorem State.setS_flags (v : Bool) : (s.setS v).flags = setFlagBit 2 v s.flags := rfl
@[simp] theorem State.setS_halted (v : Bool) : (s.setS v).halted = s.halted := rfl
@[simp] theorem State.setS_implicitHaltOp (v : Bool) : (s.setS v).implicitHaltOp = s.implicitHaltOp := rfl
@[simp] theorem State.setS_fatal (v : Bool) : (s.setS v).fatal = s.fatal := rfl
@[simp] theorem State.setS_mem (v : Bool) : (s.setS v).mem = s.mem := rfl
@[simp] theorem State.setS_readReg (v : Bool) (q : Reg) : (s.setS v).readReg q = s.readReg q := by cases q <;> rfl
@[simp] theorem State.setS_memRead (v : Bool) (addr : Word) : (s.setS v).memRead addr = s.memRead addr := rfl

/-! ## setO -/
@[simp] theorem State.setO_a (v : Bool) : (s.setO v).a = s.a := rfl
@[simp] theorem State.setO_b (v : Bool) : (s.setO v).b = s.b := rfl
@[simp] theorem State.setO_c (v : Bool) : (s.setO v).c = s.c := rfl
@[simp] theorem State.setO_d (v : Bool) : (s.setO v).d = s.d := rfl
@[simp] theorem State.setO_pc (v : Bool) : (s.setO v).pc = s.pc := rfl
@[simp] theorem State.setO_sp (v : Bool) : (s.setO v).sp = s.sp := rfl
@[simp] theorem State.setO_flags (v : Bool) : (s.setO v).flags = setFlagBit 3 v s.flags := rfl
@[simp] theorem State.setO_halted (v : Bool) : (s.setO v).halted = s.halted := rfl
@[simp] theorem State.setO_implicitHaltOp (v : Bool) : (s.setO v).implicitHaltOp = s.implicitHaltOp := rfl
@[simp] theorem State.setO_fatal (v : Bool) : (s.setO v).fatal = s.fatal := rfl
@[simp] theorem State.setO_mem (v : Bool) : (s.setO v).mem = s.mem := rfl
@[simp] theorem State.setO_readReg (v : Bool) (q : Reg) : (s.setO v).readReg q = s.readReg q := by cases q <;> rfl
@[simp] theorem State.setO_memRead (v : Bool) (addr : Word) : (s.setO v).memRead addr = s.memRead addr := rfl

/-! ## setZS -/
@[simp] theorem State.setZS_a (r : Byte) : (s.setZS r).a = s.a := rfl
@[simp] theorem State.setZS_b (r : Byte) : (s.setZS r).b = s.b := rfl
@[simp] theorem State.setZS_c (r : Byte) : (s.setZS r).c = s.c := rfl
@[simp] theorem State.setZS_d (r : Byte) : (s.setZS r).d = s.d := rfl
@[simp] theorem State.setZS_pc (r : Byte) : (s.setZS r).pc = s.pc := rfl
@[simp] theorem State.setZS_sp (r : Byte) : (s.setZS r).sp = s.sp := rfl
@[simp] theorem State.setZS_halted (r : Byte) : (s.setZS r).halted = s.halted := rfl
@[simp] theorem State.setZS_implicitHaltOp (r : Byte) : (s.setZS r).implicitHaltOp = s.implicitHaltOp := rfl
@[simp] theorem State.setZS_fatal (r : Byte) : (s.setZS r).fatal = s.fatal := rfl
@[simp] theorem State.setZS_mem (r : Byte) : (s.setZS r).mem = s.mem := rfl
@[simp] theorem State.setZS_readReg (r : Byte) (q : Reg) : (s.setZS r).readReg q = s.readReg q := by cases q <;> rfl
@[simp] theorem State.setZS_memRead (r : Byte) (addr : Word) : (s.setZS r).memRead addr = s.memRead addr := rfl

/-! ## setAddFlags -/
@[simp] theorem State.setAddFlags_a (x y r : Byte) : (s.setAddFlags x y r).a = s.a := rfl
@[simp] theorem State.setAddFlags_b (x y r : Byte) : (s.setAddFlags x y r).b = s.b := rfl
@[simp] theorem State.setAddFlags_c (x y r : Byte) : (s.setAddFlags x y r).c = s.c := rfl
@[simp] theorem State.setAddFlags_d (x y r : Byte) : (s.setAddFlags x y r).d = s.d := rfl
@[simp] theorem State.setAddFlags_pc (x y r : Byte) : (s.setAddFlags x y r).pc = s.pc := rfl
@[simp] theorem State.setAddFlags_sp (x y r : Byte) : (s.setAddFlags x y r).sp = s.sp := rfl
@[simp] theorem State.setAddFlags_halted (x y r : Byte) : (s.setAddFlags x y r).halted = s.halted := rfl
@[simp] theorem State.setAddFlags_implicitHaltOp (x y r : Byte) : (s.setAddFlags x y r).implicitHaltOp = s.implicitHaltOp := rfl
@[simp] theorem State.setAddFlags_fatal (x y r : Byte) : (s.setAddFlags x y r).fatal = s.fatal := rfl
@[simp] theorem State.setAddFlags_mem (x y r : Byte) : (s.setAddFlags x y r).mem = s.mem := rfl
@[simp] theorem State.setAddFlags_readReg (x y r : Byte) (q : Reg) : (s.setAddFlags x y r).readReg q = s.readReg q := by cases q <;> rfl
@[simp] theorem State.setAddFlags_memRead (x y r : Byte) (addr : Word) : (s.setAddFlags x y r).memRead addr = s.memRead addr := rfl

/-! ## setSubFlags -/
@[simp] theorem State.setSubFlags_a (x y r : Byte) : (s.setSubFlags x y r).a = s.a := rfl
@[simp] theorem State.setSubFlags_b (x y r : Byte) : (s.setSubFlags x y r).b = s.b := rfl
@[simp] theorem State.setSubFlags_c (x y r : Byte) : (s.setSubFlags x y r).c = s.c := rfl
@[simp] theorem State.setSubFlags_d (x y r : Byte) : (s.setSubFlags x y r).d = s.d := rfl
@[simp] theorem State.setSubFlags_pc (x y r : Byte) : (s.setSubFlags x y r).pc = s.pc := rfl
@[simp] theorem State.setSubFlags_sp (x y r : Byte) : (s.setSubFlags x y r).sp = s.sp := rfl
@[simp] theorem State.setSubFlags_halted (x y r : Byte) : (s.setSubFlags x y r).halted = s.halted := rfl
@[simp] theorem State.setSubFlags_implicitHaltOp (x y r : Byte) : (s.setSubFlags x y r).implicitHaltOp = s.implicitHaltOp := rfl
@[simp] theorem State.setSubFlags_fatal (x y r : Byte) : (s.setSubFlags x y r).fatal = s.fatal := rfl
@[simp] theorem State.setSubFlags_mem (x y r : Byte) : (s.setSubFlags x y r).mem = s.mem := rfl
@[simp] theorem State.setSubFlags_readReg (x y r : Byte) (q : Reg) : (s.setSubFlags x y r).readReg q = s.readReg q := by cases q <;> rfl
@[simp] theorem State.setSubFlags_memRead (x y r : Byte) (addr : Word) : (s.setSubFlags x y r).memRead addr = s.memRead addr := rfl

/-! ## setLogicFlags -/
@[simp] theorem State.setLogicFlags_a (r : Byte) : (s.setLogicFlags r).a = s.a := rfl
@[simp] theorem State.setLogicFlags_b (r : Byte) : (s.setLogicFlags r).b = s.b := rfl
@[simp] theorem State.setLogicFlags_c (r : Byte) : (s.setLogicFlags r).c = s.c := rfl
@[simp] theorem State.setLogicFlags_d (r : Byte) : (s.setLogicFlags r).d = s.d := rfl
@[simp] theorem State.setLogicFlags_pc (r : Byte) : (s.setLogicFlags r).pc = s.pc := rfl
@[simp] theorem State.setLogicFlags_sp (r : Byte) : (s.setLogicFlags r).sp = s.sp := rfl
@[simp] theorem State.setLogicFlags_halted (r : Byte) : (s.setLogicFlags r).halted = s.halted := rfl
@[simp] theorem State.setLogicFlags_implicitHaltOp (r : Byte) : (s.setLogicFlags r).implicitHaltOp = s.implicitHaltOp := rfl
@[simp] theorem State.setLogicFlags_fatal (r : Byte) : (s.setLogicFlags r).fatal = s.fatal := rfl
@[simp] theorem State.setLogicFlags_mem (r : Byte) : (s.setLogicFlags r).mem = s.mem := rfl
@[simp] theorem State.setLogicFlags_readReg (r : Byte) (q : Reg) : (s.setLogicFlags r).readReg q = s.readReg q := by cases q <;> rfl
@[simp] theorem State.setLogicFlags_memRead (r : Byte) (addr : Word) : (s.setLogicFlags r).memRead addr = s.memRead addr := rfl

/-! ## fetchByte -/
@[simp] theorem State.fetchByte_a : (fetchByte s).2.a = s.a := rfl
@[simp] theorem State.fetchByte_b : (fetchByte s).2.b = s.b := rfl
@[simp] theorem State.fetchByte_c : (fetchByte s).2.c = s.c := rfl
@[simp] theorem State.fetchByte_d : (fetchByte s).2.d = s.d := rfl
@[simp] theorem State.fetchByte_pc : (fetchByte s).2.pc = s.pc + 1#16 := rfl
@[simp] theorem State.fetchByte_sp : (fetchByte s).2.sp = s.sp := rfl
@[simp] theorem State.fetchByte_flags : (fetchByte s).2.flags = s.flags := rfl
@[simp] theorem State.fetchByte_halted : (fetchByte s).2.halted = s.halted := rfl
@[simp] theorem State.fetchByte_implicitHaltOp : (fetchByte s).2.implicitHaltOp = s.implicitHaltOp := rfl
@[simp] theorem State.fetchByte_fatal : (fetchByte s).2.fatal = s.fatal := rfl
@[simp] theorem State.fetchByte_mem : (fetchByte s).2.mem = s.mem := rfl
@[simp] theorem State.fetchByte_readReg (q : Reg) : (fetchByte s).2.readReg q = s.readReg q := by cases q <;> rfl
@[simp] theorem State.fetchByte_memRead (addr : Word) : (fetchByte s).2.memRead addr = s.memRead addr := rfl
@[simp] theorem State.fetchByte_flagZ : (fetchByte s).2.flagZ = s.flagZ := rfl
@[simp] theorem State.fetchByte_flagC : (fetchByte s).2.flagC = s.flagC := rfl
@[simp] theorem State.fetchByte_flagS : (fetchByte s).2.flagS = s.flagS := rfl
@[simp] theorem State.fetchByte_flagO : (fetchByte s).2.flagO = s.flagO := rfl

/-! ## writeReg -/
@[simp] theorem State.writeReg_pc (r : Reg) (v : Byte) : (s.writeReg r v).pc = s.pc := by cases r <;> rfl
@[simp] theorem State.writeReg_sp (r : Reg) (v : Byte) : (s.writeReg r v).sp = s.sp := by cases r <;> rfl
@[simp] theorem State.writeReg_flags (r : Reg) (v : Byte) : (s.writeReg r v).flags = s.flags := by cases r <;> rfl
@[simp] theorem State.writeReg_halted (r : Reg) (v : Byte) : (s.writeReg r v).halted = s.halted := by cases r <;> rfl
@[simp] theorem State.writeReg_implicitHaltOp (r : Reg) (v : Byte) : (s.writeReg r v).implicitHaltOp = s.implicitHaltOp := by cases r <;> rfl
@[simp] theorem State.writeReg_fatal (r : Reg) (v : Byte) : (s.writeReg r v).fatal = s.fatal := by cases r <;> rfl
@[simp] theorem State.writeReg_mem (r : Reg) (v : Byte) : (s.writeReg r v).mem = s.mem := by cases r <;> rfl
@[simp] theorem State.writeReg_flagZ (r : Reg) (v : Byte) : (s.writeReg r v).flagZ = s.flagZ := by cases r <;> rfl
@[simp] theorem State.writeReg_flagC (r : Reg) (v : Byte) : (s.writeReg r v).flagC = s.flagC := by cases r <;> rfl
@[simp] theorem State.writeReg_flagS (r : Reg) (v : Byte) : (s.writeReg r v).flagS = s.flagS := by cases r <;> rfl
@[simp] theorem State.writeReg_flagO (r : Reg) (v : Byte) : (s.writeReg r v).flagO = s.flagO := by cases r <;> rfl
@[simp] theorem State.writeReg_memRead (r : Reg) (v : Byte) (addr : Word) :
    (s.writeReg r v).memRead addr = s.memRead addr := by cases r <;> rfl
@[simp] theorem State.writeReg_readReg_same (r : Reg) (v : Byte) : (s.writeReg r v).readReg r = v := by cases r <;> rfl
theorem State.writeReg_readReg (r q : Reg) (v : Byte) :
    (s.writeReg r v).readReg q = if q = r then v else s.readReg q := by cases r <;> cases q <;> rfl
@[simp] theorem State.writeReg_readReg_ne (r q : Reg) (v : Byte) (h : q ≠ r) :
    (s.writeReg r v).readReg q = s.readReg q := by rw [State.writeReg_readReg, if_neg h]

/-! ## Values -/
@[simp] theorem State.popByte_value : s.popByte.1 = s.memRead s.sp := rfl
@[simp] theorem fetchByte_value : (fetchByte s).1 = s.memRead s.pc := rfl

/-- Two states with equal fields are equal. -/
theorem State.ext_fields (s t : State) (hr : ∀ q, s.readReg q = t.readReg q) (hpc : s.pc = t.pc) (hsp : s.sp = t.sp)
    (hf : s.flags = t.flags) (hh : s.halted = t.halted) (hi : s.implicitHaltOp = t.implicitHaltOp)
    (hx : s.fatal = t.fatal) (hm : s.mem = t.mem) : s = t := by
  have ha := hr .A
  have hb := hr .B
  have hc := hr .C
  have hd := hr .D
  cases s
  cases t
  simp only [State.readReg] at ha hb hc hd
  simp_all

end Sys2Proof.Machine
end

