-- ==== Sys2Proof/Laws/Flags.lean ====
section
/-! SUPPORT. What writing a flag bit does to every bit of FLAGS, and what the flag writes leave in the four flags
(10_state.md R29, R30, R31). -/

namespace Sys2Proof.Machine

/-- Writing bit `k` leaves it with the value written and every other bit as it was. -/
theorem setFlagBit_getLsbD (k j : Nat) (v : Bool) (f : Byte) (hk : k < 8) (hj : j < 8) :
    (setFlagBit k v f).getLsbD j = if j = k then v else f.getLsbD j := by
  have h1 : (1#8 <<< k).getLsbD j = decide (j = k) := by
    rw [BitVec.getLsbD_shiftLeft]
    rcases Nat.lt_trichotomy j k with h | h | h
    · simp [h, Nat.ne_of_lt h]
    · subst h
      simp [hj]
    · have h2 : j - k ≠ 0 := by omega
      simp [Nat.ne_of_gt h, h2]
  unfold setFlagBit
  cases v
  · simp only [Bool.false_eq_true, if_false, BitVec.getLsbD_and, BitVec.getLsbD_not, h1, hj, decide_true,
      Bool.true_and]
    by_cases h : j = k <;> simp [h]
  · simp only [if_true, BitVec.getLsbD_or, h1]
    by_cases h : j = k <;> simp [h]

/-- Writing a flag bit keeps the reserved bits 7:4 (R31). -/
theorem setFlagBit_reserved (k : Nat) (v : Bool) (f : Byte) (hk : k < 4) :
    (setFlagBit k v f).extractLsb' 4 4 = f.extractLsb' 4 4 := by
  apply BitVec.eq_of_getLsbD_eq
  intro i hi
  simp only [BitVec.getLsbD_extractLsb', hi, decide_true, Bool.true_and]
  rw [setFlagBit_getLsbD k (4 + i) v f (by omega) (by omega), if_neg (by omega)]

variable (s : State)

@[simp] theorem State.setZ_flagZ (v : Bool) : (s.setZ v).flagZ = v :=
  (setFlagBit_getLsbD 0 0 v s.flags (by decide) (by decide)).trans (if_pos rfl)
@[simp] theorem State.setZ_flagC (v : Bool) : (s.setZ v).flagC = s.flagC :=
  (setFlagBit_getLsbD 0 1 v s.flags (by decide) (by decide)).trans (if_neg (by decide))
@[simp] theorem State.setZ_flagS (v : Bool) : (s.setZ v).flagS = s.flagS :=
  (setFlagBit_getLsbD 0 2 v s.flags (by decide) (by decide)).trans (if_neg (by decide))
@[simp] theorem State.setZ_flagO (v : Bool) : (s.setZ v).flagO = s.flagO :=
  (setFlagBit_getLsbD 0 3 v s.flags (by decide) (by decide)).trans (if_neg (by decide))
@[simp] theorem State.setZ_reserved (v : Bool) :
    (s.setZ v).flags.extractLsb' 4 4 = s.flags.extractLsb' 4 4 := setFlagBit_reserved 0 v s.flags (by decide)

@[simp] theorem State.setC_flagZ (v : Bool) : (s.setC v).flagZ = s.flagZ :=
  (setFlagBit_getLsbD 1 0 v s.flags (by decide) (by decide)).trans (if_neg (by decide))
@[simp] theorem State.setC_flagC (v : Bool) : (s.setC v).flagC = v :=
  (setFlagBit_getLsbD 1 1 v s.flags (by decide) (by decide)).trans (if_pos rfl)
@[simp] theorem State.setC_flagS (v : Bool) : (s.setC v).flagS = s.flagS :=
  (setFlagBit_getLsbD 1 2 v s.flags (by decide) (by decide)).trans (if_neg (by decide))
@[simp] theorem State.setC_flagO (v : Bool) : (s.setC v).flagO = s.flagO :=
  (setFlagBit_getLsbD 1 3 v s.flags (by decide) (by decide)).trans (if_neg (by decide))
@[simp] theorem State.setC_reserved (v : Bool) :
    (s.setC v).flags.extractLsb' 4 4 = s.flags.extractLsb' 4 4 := setFlagBit_reserved 1 v s.flags (by decide)

@[simp] theorem State.setS_flagZ (v : Bool) : (s.setS v).flagZ = s.flagZ :=
  (setFlagBit_getLsbD 2 0 v s.flags (by decide) (by decide)).trans (if_neg (by decide))
@[simp] theorem State.setS_flagC (v : Bool) : (s.setS v).flagC = s.flagC :=
  (setFlagBit_getLsbD 2 1 v s.flags (by decide) (by decide)).trans (if_neg (by decide))
@[simp] theorem State.setS_flagS (v : Bool) : (s.setS v).flagS = v :=
  (setFlagBit_getLsbD 2 2 v s.flags (by decide) (by decide)).trans (if_pos rfl)
@[simp] theorem State.setS_flagO (v : Bool) : (s.setS v).flagO = s.flagO :=
  (setFlagBit_getLsbD 2 3 v s.flags (by decide) (by decide)).trans (if_neg (by decide))
@[simp] theorem State.setS_reserved (v : Bool) :
    (s.setS v).flags.extractLsb' 4 4 = s.flags.extractLsb' 4 4 := setFlagBit_reserved 2 v s.flags (by decide)

@[simp] theorem State.setO_flagZ (v : Bool) : (s.setO v).flagZ = s.flagZ :=
  (setFlagBit_getLsbD 3 0 v s.flags (by decide) (by decide)).trans (if_neg (by decide))
@[simp] theorem State.setO_flagC (v : Bool) : (s.setO v).flagC = s.flagC :=
  (setFlagBit_getLsbD 3 1 v s.flags (by decide) (by decide)).trans (if_neg (by decide))
@[simp] theorem State.setO_flagS (v : Bool) : (s.setO v).flagS = s.flagS :=
  (setFlagBit_getLsbD 3 2 v s.flags (by decide) (by decide)).trans (if_neg (by decide))
@[simp] theorem State.setO_flagO (v : Bool) : (s.setO v).flagO = v :=
  (setFlagBit_getLsbD 3 3 v s.flags (by decide) (by decide)).trans (if_pos rfl)
@[simp] theorem State.setO_reserved (v : Bool) :
    (s.setO v).flags.extractLsb' 4 4 = s.flags.extractLsb' 4 4 := setFlagBit_reserved 3 v s.flags (by decide)

@[simp] theorem State.setZS_flagZ (r : Byte) : (s.setZS r).flagZ = (r == 0x00#8) := by unfold State.setZS; simp only [State.setZ_flagZ, State.setS_flagZ]
@[simp] theorem State.setZS_flagC (r : Byte) : (s.setZS r).flagC = s.flagC := by unfold State.setZS; simp only [State.setZ_flagC, State.setS_flagC]
@[simp] theorem State.setZS_flagS (r : Byte) : (s.setZS r).flagS = r.getLsbD 7 := by unfold State.setZS; simp only [State.setS_flagS]
@[simp] theorem State.setZS_flagO (r : Byte) : (s.setZS r).flagO = s.flagO := by unfold State.setZS; simp only [State.setZ_flagO, State.setS_flagO]
@[simp] theorem State.setZS_reserved (r : Byte) :
    (s.setZS r).flags.extractLsb' 4 4 = s.flags.extractLsb' 4 4 := by
  simp only [State.setZS, State.setS_reserved, State.setZ_reserved]

@[simp] theorem State.setAddFlags_flagZ (x y r : Byte) : (s.setAddFlags x y r).flagZ = (r == 0x00#8) := by unfold State.setAddFlags; simp only [State.setZS_flagZ, State.setC_flagZ, State.setO_flagZ]
@[simp] theorem State.setAddFlags_flagC (x y r : Byte) : (s.setAddFlags x y r).flagC = addCarry x y := by unfold State.setAddFlags; simp only [State.setC_flagC, State.setO_flagC]
@[simp] theorem State.setAddFlags_flagS (x y r : Byte) : (s.setAddFlags x y r).flagS = r.getLsbD 7 := by unfold State.setAddFlags; simp only [State.setZS_flagS, State.setC_flagS, State.setO_flagS]
@[simp] theorem State.setAddFlags_flagO (x y r : Byte) : (s.setAddFlags x y r).flagO = addOverflow x y r := by unfold State.setAddFlags; simp only [State.setO_flagO]
@[simp] theorem State.setAddFlags_reserved (x y r : Byte) :
    (s.setAddFlags x y r).flags.extractLsb' 4 4 = s.flags.extractLsb' 4 4 := by
  simp only [State.setAddFlags, State.setC_reserved, State.setO_reserved, State.setZS_reserved]

@[simp] theorem State.setSubFlags_flagZ (x y r : Byte) : (s.setSubFlags x y r).flagZ = (r == 0x00#8) := by unfold State.setSubFlags; simp only [State.setZS_flagZ, State.setC_flagZ, State.setO_flagZ]
@[simp] theorem State.setSubFlags_flagC (x y r : Byte) : (s.setSubFlags x y r).flagC = subCarry x y := by unfold State.setSubFlags; simp only [State.setC_flagC, State.setO_flagC]
@[simp] theorem State.setSubFlags_flagS (x y r : Byte) : (s.setSubFlags x y r).flagS = r.getLsbD 7 := by unfold State.setSubFlags; simp only [State.setZS_flagS, State.setC_flagS, State.setO_flagS]
@[simp] theorem State.setSubFlags_flagO (x y r : Byte) : (s.setSubFlags x y r).flagO = subOverflow x y r := by unfold State.setSubFlags; simp only [State.setO_flagO]
@[simp] theorem State.setSubFlags_reserved (x y r : Byte) :
    (s.setSubFlags x y r).flags.extractLsb' 4 4 = s.flags.extractLsb' 4 4 := by
  simp only [State.setSubFlags, State.setC_reserved, State.setO_reserved, State.setZS_reserved]

@[simp] theorem State.setLogicFlags_flagZ (r : Byte) : (s.setLogicFlags r).flagZ = (r == 0x00#8) := by unfold State.setLogicFlags; simp only [State.setZS_flagZ, State.setC_flagZ, State.setO_flagZ]
@[simp] theorem State.setLogicFlags_flagC (r : Byte) : (s.setLogicFlags r).flagC = false := by unfold State.setLogicFlags; simp only [State.setC_flagC, State.setO_flagC]
@[simp] theorem State.setLogicFlags_flagS (r : Byte) : (s.setLogicFlags r).flagS = r.getLsbD 7 := by unfold State.setLogicFlags; simp only [State.setZS_flagS, State.setC_flagS, State.setO_flagS]
@[simp] theorem State.setLogicFlags_flagO (r : Byte) : (s.setLogicFlags r).flagO = false := by unfold State.setLogicFlags; simp only [State.setO_flagO]
@[simp] theorem State.setLogicFlags_reserved (r : Byte) :
    (s.setLogicFlags r).flags.extractLsb' 4 4 = s.flags.extractLsb' 4 4 := by
  simp only [State.setLogicFlags, State.setC_reserved, State.setO_reserved, State.setZS_reserved]

end Sys2Proof.Machine
end

