-- ==== Sys2Proof/Laws/Memory.lean ====
section
/-! SUPPORT. The laws of memory: reading after writing, the canonical form and that every operation keeps it, and
that canonical memories which read alike are equal (20_memory.md R42, R52). -/

namespace Sys2Proof.Machine

theorem Memory.read_filter_other (m : Memory) (addr k : Nat) (h : k ≠ addr) :
    Memory.read (Memory.erase m addr) k = Memory.read m k := by
  induction m with
  | nil => rfl
  | cons cell rest ih =>
    obtain ⟨j, w⟩ := cell
    unfold Memory.erase at ih ⊢
    by_cases hj : j = addr
    · subst hj
      simp [Memory.read, ih, Ne.symm h]
    · simp [Memory.read, hj, ih]

theorem Memory.read_filter_same (m : Memory) (addr : Nat) :
    Memory.read (Memory.erase m addr) addr = Config.resetCell := by
  induction m with
  | nil => rfl
  | cons cell rest ih =>
    obtain ⟨j, w⟩ := cell
    unfold Memory.erase at ih ⊢
    by_cases hj : j = addr
    · simp [hj, ih]
    · simp [Memory.read, hj, ih]

theorem Memory.read_insert (m : Memory) (addr k : Nat) (v : Byte) :
    Memory.read (Memory.insert m addr v) k = if k = addr then v else Memory.read m k := by
  induction m with
  | nil => simp [Memory.insert, Memory.read, eq_comm]
  | cons cell rest ih =>
    obtain ⟨j, w⟩ := cell
    unfold Memory.insert
    split
    · by_cases hk : k = addr
      · simp [Memory.read, hk]
      · simp [Memory.read, hk, Ne.symm hk]
    · split
      · subst_vars
        by_cases hk : k = j
        · simp [Memory.read, hk]
        · simp [Memory.read, hk, Ne.symm hk]
      · rename_i _ hne
        by_cases hj : j = k
        · subst hj
          simp [Memory.read, Ne.symm hne]
        · simp [Memory.read, hj, ih]

/-- A read after a write: the value at the address written, and every other address as before (R42). -/
theorem Memory.read_write (m : Memory) (addr k : Nat) (v : Byte) :
    Memory.read (Memory.write m addr v) k = if k = addr then v else Memory.read m k := by
  unfold Memory.write
  split
  · subst_vars
    by_cases hk : k = addr
    · simp [hk, Memory.read_filter_same]
    · simp [hk, Memory.read_filter_other]
  · exact Memory.read_insert m addr k v

@[simp] theorem State.memRead_memWrite_same (s : State) (addr : Word) (v : Byte) :
    (s.memWrite addr v).memRead addr = v := by
  simp [State.memRead, Memory.read_write]

theorem State.memRead_memWrite (s : State) (addr k : Word) (v : Byte) :
    (s.memWrite addr v).memRead k = if k = addr then v else s.memRead k := by
  simp [State.memRead, Memory.read_write, BitVec.toNat_inj]

theorem State.memRead_pushByte (s : State) (k : Word) (v : Byte) :
    (s.pushByte v).memRead k = if k = s.sp - 1#16 then v else s.memRead k := by
  simp only [State.memRead, State.pushByte_mem, Memory.read_write, BitVec.toNat_inj]

/-! ## The canonical form -/

theorem Memory.wfFrom_mono (m : Memory) (lo hi : Nat) (h : Memory.wfFrom hi m = true) (hle : lo ≤ hi) :
    Memory.wfFrom lo m = true := by
  cases m with
  | nil => rfl
  | cons cell rest =>
    simp only [Memory.wfFrom, Bool.and_eq_true, decide_eq_true_eq] at h ⊢
    exact ⟨⟨⟨by omega, h.1.1.2⟩, h.1.2⟩, h.2⟩

theorem Memory.wfFrom_erase (m : Memory) (addr lo : Nat) (h : Memory.wfFrom lo m = true) :
    Memory.wfFrom lo (Memory.erase m addr) = true := by
  induction m generalizing lo with
  | nil => rfl
  | cons cell rest ih =>
    obtain ⟨j, w⟩ := cell
    have h' := h
    simp only [Memory.wfFrom, Bool.and_eq_true, decide_eq_true_eq] at h'
    unfold Memory.erase at ih ⊢
    by_cases hj : j = addr
    · simp only [List.filter, hj, bne_self_eq_false]
      exact Memory.wfFrom_mono _ _ _ (ih _ h'.2) (by omega)
    · simp only [List.filter]
      simp only [show (j != addr) = true by simp [hj], Memory.wfFrom, Bool.and_eq_true, decide_eq_true_eq]
      exact ⟨h'.1, ih _ h'.2⟩

theorem Memory.wfFrom_insert (m : Memory) (addr lo : Nat) (v : Byte) (hv : v ≠ Config.resetCell)
    (ha : addr < Config.memSize) (hlo : lo ≤ addr) (h : Memory.wfFrom lo m = true) :
    Memory.wfFrom lo (Memory.insert m addr v) = true := by
  induction m generalizing lo with
  | nil => simp [Memory.insert, Memory.wfFrom, hv, ha, hlo]
  | cons cell rest ih =>
    obtain ⟨j, w⟩ := cell
    simp only [Memory.wfFrom, Bool.and_eq_true, decide_eq_true_eq] at h
    unfold Memory.insert
    split
    · simp only [Memory.wfFrom, Bool.and_eq_true, decide_eq_true_eq, bne_iff_ne, ne_eq]
      exact ⟨⟨⟨hlo, ha⟩, hv⟩, ⟨⟨by omega, h.1.1.2⟩, by simpa using h.1.2⟩, h.2⟩
    · split
      · subst_vars
        simp only [Memory.wfFrom, Bool.and_eq_true, decide_eq_true_eq, bne_iff_ne, ne_eq]
        exact ⟨⟨⟨hlo, ha⟩, hv⟩, h.2⟩
      · simp only [Memory.wfFrom, Bool.and_eq_true, decide_eq_true_eq]
        exact ⟨h.1, ih _ (by omega) h.2⟩

/-- A write keeps the canonical form. -/
theorem Memory.wf_write (m : Memory) (addr : Nat) (v : Byte) (ha : addr < Config.memSize)
    (h : Memory.wf m = true) : Memory.wf (Memory.write m addr v) = true := by
  unfold Memory.write
  split
  · exact Memory.wfFrom_erase m addr 0 h
  · exact Memory.wfFrom_insert m addr 0 v ‹_› ha (Nat.zero_le _) h

theorem Word.toNat_lt_memSize (w : Word) : w.toNat < Config.memSize := w.isLt

@[simp] theorem State.memWrite_wf (s : State) (addr : Word) (v : Byte) (h : Memory.wf s.mem = true) :
    Memory.wf (s.memWrite addr v).mem = true :=
  Memory.wf_write _ _ _ (Word.toNat_lt_memSize addr) h

@[simp] theorem State.pushByte_wf (s : State) (v : Byte) (h : Memory.wf s.mem = true) :
    Memory.wf (s.pushByte v).mem = true :=
  Memory.wf_write _ _ _ (Word.toNat_lt_memSize _) h

/-- Writing several bytes keeps the canonical form. -/
theorem State.memWriteBytes_wf (s : State) (addr : Word) (bytes : List Byte) (h : Memory.wf s.mem = true) :
    Memory.wf (s.memWriteBytes addr bytes).mem = true := by
  induction bytes generalizing s addr with
  | nil => exact h
  | cons v rest ih => exact ih _ _ (State.memWrite_wf s addr v h)

/-- Placing an image gives the canonical form. -/
theorem imageCells_wfFrom (image : List Byte) (k : Nat) (h : k + image.length ≤ Config.memSize) :
    Memory.wfFrom k (imageCells k image) = true := by
  induction image generalizing k with
  | nil => rfl
  | cons v rest ih =>
    have hk : k < Config.memSize := by simp only [List.length_cons] at h; omega
    have hr : Memory.wfFrom (k + 1) (imageCells (k + 1) rest) = true :=
      ih (k + 1) (by simp only [List.length_cons] at h; omega)
    unfold imageCells
    split
    · exact Memory.wfFrom_mono _ _ _ hr (Nat.le_succ k)
    · simp [Memory.wfFrom, *]

/-- Below its first address a canonical memory reads its reset contents. -/
theorem Memory.read_below (m : Memory) (lo k : Nat) (h : Memory.wfFrom lo m = true) (hk : k < lo) :
    Memory.read m k = Config.resetCell := by
  induction m generalizing lo with
  | nil => rfl
  | cons cell rest ih =>
    obtain ⟨j, w⟩ := cell
    simp only [Memory.wfFrom, Bool.and_eq_true, decide_eq_true_eq] at h
    have hne : ¬ j = k := by omega
    simp only [Memory.read, hne, if_false]
    exact ih _ h.2 (by omega)

theorem Memory.eq_of_read_eq_from (m : Memory) : ∀ (n : Memory) (lo : Nat), Memory.wfFrom lo m = true →
    Memory.wfFrom lo n = true → (∀ k, Memory.read m k = Memory.read n k) → m = n := by
  induction m with
  | nil =>
    intro n lo _ hn hread
    cases n with
    | nil => rfl
    | cons cell rest =>
      obtain ⟨j, w⟩ := cell
      simp only [Memory.wfFrom, Bool.and_eq_true, decide_eq_true_eq, bne_iff_ne, ne_eq] at hn
      exact absurd (by simpa [Memory.read] using (hread j).symm) hn.1.2
  | cons cell rest ih =>
    obtain ⟨i, v⟩ := cell
    intro n lo hm hn hread
    simp only [Memory.wfFrom, Bool.and_eq_true, decide_eq_true_eq, bne_iff_ne, ne_eq] at hm
    cases n with
    | nil => exact absurd (by simpa [Memory.read] using hread i) hm.1.2
    | cons cell2 rest2 =>
      obtain ⟨j, w⟩ := cell2
      simp only [Memory.wfFrom, Bool.and_eq_true, decide_eq_true_eq, bne_iff_ne, ne_eq] at hn
      have hij : i = j := by
        rcases Nat.lt_trichotomy i j with hlt | heq | hgt
        · have h1 := hread i
          have hz : Memory.read rest2 i = Config.resetCell := Memory.read_below _ _ _ hn.2 (by omega)
          simp only [Memory.read, if_true, if_neg (show ¬ j = i by omega), hz] at h1
          exact absurd h1 hm.1.2
        · exact heq
        · have h1 := hread j
          have hz : Memory.read rest j = Config.resetCell := Memory.read_below _ _ _ hm.2 (by omega)
          simp only [Memory.read, if_true, if_neg (show ¬ i = j by omega), hz] at h1
          exact absurd h1.symm hn.1.2
      subst hij
      have hvw : v = w := by simpa [Memory.read] using hread i
      subst hvw
      have hrest : rest = rest2 := by
        refine ih rest2 (i + 1) hm.2 hn.2 fun k => ?_
        by_cases hk : i = k
        · rw [Memory.read_below _ _ k hm.2 (by omega), Memory.read_below _ _ k hn.2 (by omega)]
        · simpa [Memory.read, hk] using hread k
      rw [hrest]

/-- Canonical memories that read alike everywhere are the same list. -/
theorem Memory.eq_of_read_eq (m n : Memory) (hm : Memory.wf m = true) (hn : Memory.wf n = true)
    (h : ∀ k, Memory.read m k = Memory.read n k) : m = n :=
  Memory.eq_of_read_eq_from m n 0 hm hn h

/-- The cells of an image read as the image (R181). -/
theorem imageCells_read (image : List Byte) (base k : Nat) (h : base ≤ k) :
    Memory.read (imageCells base image) k = image.getD (k - base) Config.resetCell := by
  induction image generalizing base with
  | nil => simp [imageCells, Memory.read]
  | cons v rest ih =>
    unfold imageCells
    by_cases hk : k = base
    · subst hk
      split
      · subst_vars
        have : Memory.read (imageCells (k + 1) rest) k = Config.resetCell := by
          clear ih
          generalize hb : k + 1 = b
          have hlt : k < b := by omega
          clear hb h
          induction rest generalizing b with
          | nil => rfl
          | cons w tail ih =>
            unfold imageCells
            split
            · exact ih (b + 1) (by omega)
            · simp only [Memory.read, if_neg (show ¬ b = k by omega)]
              exact ih (b + 1) (by omega)
        simp [this]
      · simp [Memory.read]
    · have hlt : base + 1 ≤ k := by omega
      have hs : k - base = (k - (base + 1)) + 1 := by omega
      split
      · rw [ih _ hlt, hs, List.getD_cons_succ]
      · simp only [Memory.read, if_neg (show ¬ base = k by omega)]
        rw [ih _ hlt, hs, List.getD_cons_succ]

end Sys2Proof.Machine
end

