-- ==== Sys2Proof/Laws/Ops.lean ====
section
/-! SUPPORT. What each shared operation can answer: register selection, `CheckReg`, pushes and pops, and the bytes of a
word. -/

namespace Sys2Proof.Machine

/-! ## Words and bytes (00_scope.md R7) -/

@[simp] theorem wordOfBytes_hi_lo (w : Word) : wordOfBytes (hiByte w) (loByte w) = w := by
  apply BitVec.eq_of_toNat_eq
  simp only [wordOfBytes, hiByte, loByte, BitVec.toNat_append, BitVec.extractLsb'_toNat, Nat.shiftRight_zero]
  rw [← Nat.shiftLeft_add_eq_or_of_lt (Nat.mod_lt _ (by decide))]
  have := w.isLt
  simp only [Nat.shiftRight_eq_div_pow, Nat.shiftLeft_eq]
  omega

@[simp] theorem hiByte_wordOfBytes (hi lo : Byte) : hiByte (wordOfBytes hi lo) = hi := by
  apply BitVec.eq_of_toNat_eq
  simp only [wordOfBytes, hiByte, BitVec.toNat_append, BitVec.extractLsb'_toNat]
  rw [← Nat.shiftLeft_add_eq_or_of_lt lo.isLt]
  have h1 := hi.isLt
  have h2 := lo.isLt
  simp only [Nat.shiftRight_eq_div_pow, Nat.shiftLeft_eq]
  omega

@[simp] theorem loByte_wordOfBytes (hi lo : Byte) : loByte (wordOfBytes hi lo) = lo := by
  apply BitVec.eq_of_toNat_eq
  simp only [wordOfBytes, loByte, BitVec.toNat_append, BitVec.extractLsb'_toNat, Nat.shiftRight_zero]
  rw [← Nat.shiftLeft_add_eq_or_of_lt lo.isLt]
  have h2 := lo.isLt
  simp only [Nat.shiftLeft_eq]
  omega

/-! ## Register selection (10_state.md R20, R23) -/

@[simp] theorem regOfIndex_indexOfReg (r : Reg) : regOfIndex (indexOfReg r) = some r := by cases r <;> rfl

theorem regOfIndex_isSome : ∀ index : Byte, (regOfIndex index).isSome = registerByteOk index := by decide

theorem indexOfReg_of_regOfIndex : ∀ (index : Byte) (r : Reg), regOfIndex index = some r → indexOfReg r = index := by
  intro index r h
  revert r
  revert index
  decide +revert

/-- A byte that names no register selects none. -/
theorem regOfIndex_eq_none (index : Byte) : regOfIndex index = none ↔ registerByteOk index = false := by
  rw [← regOfIndex_isSome]
  cases regOfIndex index <;> simp

/-- A byte that names a register selects one, whose index it is. -/
theorem exists_regOfIndex (index : Byte) (h : registerByteOk index = true) :
    ∃ r, regOfIndex index = some r ∧ indexOfReg r = index := by
  rw [← regOfIndex_isSome, Option.isSome_iff_exists] at h
  obtain ⟨r, hr⟩ := h
  exact ⟨r, hr, indexOfReg_of_regOfIndex index r hr⟩

/-! ## CheckReg (60_exceptions.md R161, R162) -/

@[simp] theorem checkReg_index (i : Instr) (r : Reg) (s : State) (go : Reg → Result) :
    checkReg i (indexOfReg r) s go = go r := by simp [checkReg]

@[simp] theorem checkRegs_index (i : Instr) (d e : Reg) (s : State) (go : Reg → Reg → Result) :
    checkRegs i (indexOfReg d) (indexOfReg e) s go = go d e := by simp [checkRegs]

theorem checkReg_bad (i : Instr) (index : Byte) (s : State) (go : Reg → Result) (h : registerByteOk index = false) :
    checkReg i index s go = .fault (.fatalRegIndex (fatalInfoOf i index s)) := by
  simp [checkReg, (regOfIndex_eq_none index).2 h, raiseFatal]

/-- What `CheckReg` can answer: the fault, or what follows with the register of that index. -/
theorem checkReg_cases (i : Instr) (index : Byte) (s : State) (go : Reg → Result) :
    (registerByteOk index = false ∧ checkReg i index s go = .fault (.fatalRegIndex (fatalInfoOf i index s))) ∨
    (∃ r, index = indexOfReg r ∧ checkReg i index s go = go r) := by
  by_cases h : registerByteOk index = true
  · obtain ⟨r, hr, hi⟩ := exists_regOfIndex index h
    exact Or.inr ⟨r, hi.symm, by simp [checkReg, hr]⟩
  · exact Or.inl ⟨by simpa using h, checkReg_bad i index s go (by simpa using h)⟩

/-- What the two checks can answer: the fault of `rd`, the fault of `rs`, or what follows with both registers. -/
theorem checkRegs_cases (i : Instr) (rd rs : Byte) (s : State) (go : Reg → Reg → Result) :
    (registerByteOk rd = false ∧ checkRegs i rd rs s go = .fault (.fatalRegIndex (fatalInfoOf i rd s))) ∨
    (registerByteOk rd = true ∧ registerByteOk rs = false ∧
      checkRegs i rd rs s go = .fault (.fatalRegIndex (fatalInfoOf i rs s))) ∨
    (∃ d e, rd = indexOfReg d ∧ rs = indexOfReg e ∧ checkRegs i rd rs s go = go d e) := by
  unfold checkRegs
  rcases checkReg_cases i rd s (fun d => checkReg i rs s fun e => go d e) with ⟨h, he⟩ | ⟨d, rfl, he⟩
  · exact Or.inl ⟨h, he⟩
  · rcases checkReg_cases i rs s (fun e => go d e) with ⟨h2, he2⟩ | ⟨e, rfl, he2⟩
    · exact Or.inr (Or.inl ⟨by cases d <;> decide, h2, he.trans he2⟩)
    · exact Or.inr (Or.inr ⟨d, e, rfl, rfl, he.trans he2⟩)

/-- `CheckReg` goes on only with a register: if it answers a next state, so did what follows. -/
theorem checkReg_next {i : Instr} {index : Byte} {s t : State} {go : Reg → Result}
    (h : checkReg i index s go = .next t) : ∃ r, index = indexOfReg r ∧ go r = .next t := by
  rcases checkReg_cases i index s go with ⟨_, he⟩ | ⟨r, hr, he⟩
  · rw [he] at h
    cases h
  · exact ⟨r, hr, he ▸ h⟩

theorem checkRegs_next {i : Instr} {rd rs : Byte} {s t : State} {go : Reg → Reg → Result}
    (h : checkRegs i rd rs s go = .next t) : ∃ d e, rd = indexOfReg d ∧ rs = indexOfReg e ∧ go d e = .next t := by
  obtain ⟨d, rfl, h1⟩ := checkReg_next h
  obtain ⟨e, rfl, h2⟩ := checkReg_next h1
  exact ⟨d, e, rfl, rfl, h2⟩

/-! ## Arithmetic -/

/-- The exact sum narrowed to 8 bits is the sum of bit vectors. -/
theorem sum_narrowed (a b : Byte) : BitVec.ofNat 8 (a.toNat + b.toNat) = a + b := by
  apply BitVec.eq_of_toNat_eq
  simp

/-- The exact product narrowed to 8 bits is the product of bit vectors. -/
theorem product_narrowed (a b : Byte) : BitVec.ofNat 8 (a.toNat * b.toNat) = a * b := by
  apply BitVec.eq_of_toNat_eq
  simp

/-- The exact difference narrowed to 8 bits is the difference of bit vectors. -/
theorem difference_eq_sub (a b : Byte) : difference a b = a - b := by
  apply BitVec.eq_of_toNat_eq
  have ha := a.isLt
  have hb := b.isLt
  simp only [difference, BitVec.toNat_ofInt, BitVec.toNat_sub]
  omega

/-! ## Stack -/

/-- Popping what was just pushed: the byte pushed, and `sp` as before the push. -/
theorem popByte_pushByte (s : State) (v : Byte) :
    (s.pushByte v).popByte.1 = v ∧ (s.pushByte v).popByte.2.sp = s.sp := by
  constructor
  · simp [State.memRead_pushByte]
  · simp

end Sys2Proof.Machine
end

