-- ==== Sys2Proof/Laws/Decode.lean ====
section
/-! SUPPORT. What the opcode map gives the decoder, the encoder and the fetch, said once: a format's instruction encodes
to the opcode byte and the operand bytes it was read from, and the fetch reads what the decoder reads. -/

namespace Sys2Proof.Machine

/-- The instruction of a format, read from operand bytes, encodes to its opcode byte and those bytes (R61, R65). -/
theorem opcodeForm_encode {op : Byte} {f : Form} (h : opcodeForm op = some f) :
    match f with
    | .n i => encode i = [op]
    | .i mk => ∀ b1, encode (mk b1) = [op, b1]
    | .r mk => ∀ b1, encode (mk b1) = [op, b1]
    | .rr mk => ∀ b1 b2, encode (mk b1 b2) = [op, b1, b2]
    | .a mk => ∀ b1 b2, encode (mk (wordOfBytes b1 b2)) = [op, b1, b2] := by
  unfold opcodeForm at h
  split at h <;> first
    | (cases h; done)
    | (cases h; simp [encode])

/-- The opcode bytes outside the map are 0x20..0xFE (R67). -/
theorem opcodeForm_eq_none (op : Byte) : opcodeForm op = none ↔ 0x20 ≤ op.toNat ∧ op.toNat ≤ 0xFE := by
  rw [← Option.isNone_iff_eq_none]
  revert op
  decide

/-- The fetch leaves the instruction that the bytes at `pc` decode to, and `pc` past it (R60). -/
theorem fetch_of_decode {s : State} {i : Instr} {rest : List Byte}
    (h : decode [s.memRead s.pc, s.memRead (s.pc + 1#16), s.memRead (s.pc + 2#16)] = .instr i rest) :
    fetch s = (.instr i, { s with pc := s.pc + BitVec.ofNat 16 (lengthOf i) }) := by
  simp only [decode] at h
  unfold fetch fetchByte
  dsimp only
  split at h
  · cases h
  all_goals
    rename_i hform
    cases h
    have henc := opcodeForm_encode hform
    unfold State.memRead at hform henc
    simp_all [lengthOf, State.memRead, BitVec.add_assoc]

/-- What the fetch reads as an instruction, the decoder does. -/
theorem decode_of_fetch {s u : State} {i : Instr} (h : fetch s = (.instr i, u)) :
    ∃ rest, decode [s.memRead s.pc, s.memRead (s.pc + 1#16), s.memRead (s.pc + 2#16)] = .instr i rest := by
  unfold fetch fetchByte at h
  dsimp only at h
  split at h
  · cases h
  all_goals
    rename_i hform
    cases h
    unfold State.memRead at hform
    simp [decode, hform, State.memRead, BitVec.add_assoc]

end Sys2Proof.Machine
end

