-- ==== Sys2Proof/Laws/PerInstr.lean ====
section
/-! SUPPORT. The shape of every instruction's encoding, one lemma per constructor: its opcode byte is in the opcode map,
and the map's length for that byte is the number of bytes the encoder writes (30_encoding.md R65, R66). -/

namespace Sys2Proof.Laws.EncodingShape

/-- The encoding starts with an opcode byte of the map, and `Length(op)` of that byte is the number of bytes written. -/
def Statement (i : Instr) : Prop :=
  (encode i).head? = some (opcodeOf i) ∧ opcodeLength (opcodeOf i) = some (lengthOf i)

theorem nop : Statement (.nop) := ⟨rfl, rfl⟩
theorem lda (addr : Word) : Statement (.lda addr) := ⟨rfl, rfl⟩
theorem ldb (addr : Word) : Statement (.ldb addr) := ⟨rfl, rfl⟩
theorem ldi (imm8 : Byte) : Statement (.ldi imm8) := ⟨rfl, rfl⟩
theorem inc : Statement (.inc) := ⟨rfl, rfl⟩
theorem dec : Statement (.dec) := ⟨rfl, rfl⟩
theorem add (rd rs : Byte) : Statement (.add rd rs) := ⟨rfl, rfl⟩
theorem sub (rd rs : Byte) : Statement (.sub rd rs) := ⟨rfl, rfl⟩
theorem mul (rd rs : Byte) : Statement (.mul rd rs) := ⟨rfl, rfl⟩
theorem sta (addr : Word) : Statement (.sta addr) := ⟨rfl, rfl⟩
theorem stb (addr : Word) : Statement (.stb addr) := ⟨rfl, rfl⟩
theorem mov (rd rs : Byte) : Statement (.mov rd rs) := ⟨rfl, rfl⟩
theorem cmp (rd rs : Byte) : Statement (.cmp rd rs) := ⟨rfl, rfl⟩
theorem jmp (addr : Word) : Statement (.jmp addr) := ⟨rfl, rfl⟩
theorem jz (addr : Word) : Statement (.jz addr) := ⟨rfl, rfl⟩
theorem jnz (addr : Word) : Statement (.jnz addr) := ⟨rfl, rfl⟩
theorem jc (addr : Word) : Statement (.jc addr) := ⟨rfl, rfl⟩
theorem jnc (addr : Word) : Statement (.jnc addr) := ⟨rfl, rfl⟩
theorem je (addr : Word) : Statement (.je addr) := ⟨rfl, rfl⟩
theorem jne (addr : Word) : Statement (.jne addr) := ⟨rfl, rfl⟩
theorem jl (addr : Word) : Statement (.jl addr) := ⟨rfl, rfl⟩
theorem jg (addr : Word) : Statement (.jg addr) := ⟨rfl, rfl⟩
theorem jb (addr : Word) : Statement (.jb addr) := ⟨rfl, rfl⟩
theorem ja (addr : Word) : Statement (.ja addr) := ⟨rfl, rfl⟩
theorem and (rd rs : Byte) : Statement (.and rd rs) := ⟨rfl, rfl⟩
theorem or (rd rs : Byte) : Statement (.or rd rs) := ⟨rfl, rfl⟩
theorem xor (rd rs : Byte) : Statement (.xor rd rs) := ⟨rfl, rfl⟩
theorem not (r : Byte) : Statement (.not r) := ⟨rfl, rfl⟩
theorem push (r : Byte) : Statement (.push r) := ⟨rfl, rfl⟩
theorem pop (r : Byte) : Statement (.pop r) := ⟨rfl, rfl⟩
theorem call (addr : Word) : Statement (.call addr) := ⟨rfl, rfl⟩
theorem ret : Statement (.ret) := ⟨rfl, rfl⟩
theorem hlt : Statement (.hlt) := ⟨rfl, rfl⟩

end Sys2Proof.Laws.EncodingShape
end

