-- ==== Sys2Proof/Laws/Step.lean ====
section
/-! SUPPORT. What a fetch and a step can do, said once: the cases of a step, and the fields a fetch leaves alone. -/

namespace Sys2Proof.Machine

/-! ## The fetch (30_encoding.md R60) -/

/-- A fetch writes `pc` only. -/
theorem fetch_frame (s : State) : ∃ n : Nat, (fetch s).2 = { s with pc := s.pc + BitVec.ofNat 16 n } := by
  unfold fetch fetchByte
  dsimp only
  split
  · exact ⟨1, rfl⟩
  · exact ⟨1, rfl⟩
  · exact ⟨2, by simp [BitVec.add_assoc]⟩
  · exact ⟨2, by simp [BitVec.add_assoc]⟩
  · exact ⟨3, by simp [BitVec.add_assoc]⟩
  · exact ⟨3, by simp [BitVec.add_assoc]⟩

/-! ## The step (R60, 60_exceptions.md R166) -/

theorem step_fatal (s : State) (info : FatalInfo) (h : s.fatal = some info) :
    step s = .fault (.coreInFatalState info) := by simp [step, h]

theorem step_halted (s : State) (hf : s.fatal = none) (hh : s.halted = true) : step s = .next s := by
  simp [step, hf, hh]

/-- A core that can step fetches, then takes the implicit halt or executes. -/
theorem step_running (s : State) (hf : s.fatal = none) (hh : s.halted = false) :
    step s = match fetch s with
      | (.undefinedOpcode op, t) => execUndefined op t
      | (.instr i, t) => exec i t := by
  unfold step
  rw [hf]
  refine (if_neg (by simp [hh])).trans ?_
  cases fetch s with
  | mk found u => cases found <;> rfl

/-- What a step that answers a next state did. -/
theorem step_cases {s t : State} (h : step s = .next t) :
    (s.fatal = none ∧ s.halted = true ∧ t = s) ∨
    (∃ op u, s.fatal = none ∧ s.halted = false ∧ fetch s = (.undefinedOpcode op, u) ∧ t = u.implicitHalt op) ∨
    (∃ i u, s.fatal = none ∧ s.halted = false ∧ fetch s = (.instr i, u) ∧ exec i u = .next t) := by
  cases hf : s.fatal with
  | some info =>
    rw [step_fatal s info hf] at h
    cases h
  | none =>
    cases hh : s.halted with
    | true =>
      rw [step_halted s hf hh] at h
      cases h
      exact Or.inl ⟨rfl, rfl, rfl⟩
    | false =>
      rw [step_running s hf hh] at h
      rcases hfe : fetch s with ⟨_ | _, u⟩
      · rw [hfe] at h
        exact Or.inr (Or.inr ⟨_, u, rfl, rfl, rfl, h⟩)
      · rw [hfe] at h
        cases h
        exact Or.inr (Or.inl ⟨_, u, rfl, rfl, rfl, rfl⟩)

end Sys2Proof.Machine
end

