-- ==== Sys2Proof/Tests/Slice0.lean ====
section
/-! SUPPORT. Tests of the model, one step each, with expected values from spec/95_test_vectors.md (its section is named
at each group) or written out from the rules; and a witness for the hypotheses of every statement that has some. -/

namespace Sys2Proof.Tests

open Sys2Proof Sys2Proof.Machine

/-! ## Well-formedness (10 R23, 30 R62): each register byte of each instruction is checked -/

theorem test_wf_refuses_bad_rd :
    (Instr.add 0x04#8 0x00#8).wellFormed = false ∧ (Instr.sub 0x04#8 0x00#8).wellFormed = false ∧
    (Instr.mul 0x04#8 0x00#8).wellFormed = false ∧ (Instr.mov 0x04#8 0x00#8).wellFormed = false ∧
    (Instr.cmp 0x04#8 0x00#8).wellFormed = false ∧ (Instr.and 0x04#8 0x00#8).wellFormed = false ∧
    (Instr.or 0x04#8 0x00#8).wellFormed = false ∧ (Instr.xor 0x04#8 0x00#8).wellFormed = false := by decide

theorem test_wf_refuses_bad_rs :
    (Instr.add 0x03#8 0xFF#8).wellFormed = false ∧ (Instr.sub 0x03#8 0xFF#8).wellFormed = false ∧
    (Instr.mul 0x03#8 0xFF#8).wellFormed = false ∧ (Instr.mov 0x03#8 0xFF#8).wellFormed = false ∧
    (Instr.cmp 0x03#8 0xFF#8).wellFormed = false ∧ (Instr.and 0x03#8 0xFF#8).wellFormed = false ∧
    (Instr.or 0x03#8 0xFF#8).wellFormed = false ∧ (Instr.xor 0x03#8 0xFF#8).wellFormed = false := by decide

theorem test_wf_refuses_bad_r :
    (Instr.not 0x04#8).wellFormed = false ∧ (Instr.push 0x04#8).wellFormed = false ∧
    (Instr.pop 0x04#8).wellFormed = false := by decide

theorem test_wf_accepts_registers_and_any_immediate :
    (Instr.add 0x03#8 0x00#8).wellFormed = true ∧ (Instr.pop 0x03#8).wellFormed = true ∧
    (Instr.ldi 0xFF#8).wellFormed = true ∧ (Instr.jmp 0xFFFF#16).wellFormed = true := by decide

/-! ## Decoding: a word of every instruction, written out from 30 R65 and R61 -/

theorem test_decode_no_operand :
    decode [0b00000000#8] = .instr .nop [] ∧ decode [0b00000100#8] = .instr .inc [] ∧
    decode [0b00000101#8] = .instr .dec [] ∧ decode [0b00011111#8] = .instr .ret [] ∧
    decode [0b11111111#8] = .instr .hlt [] := by decide

theorem test_decode_immediate : decode [0b00000011#8, 0b10000101#8] = .instr (.ldi 0x85#8) [] := by decide

theorem test_decode_one_register :
    decode [0b00011011#8, 0x02#8] = .instr (.not 0x02#8) [] ∧ decode [0b00011100#8, 0x03#8] = .instr (.push 0x03#8) [] ∧
    decode [0b00011101#8, 0x01#8] = .instr (.pop 0x01#8) [] := by decide

theorem test_decode_two_registers :
    decode [0b00000110#8, 0x02#8, 0x01#8] = .instr (.add 0x02#8 0x01#8) [] ∧
    decode [0b00000111#8, 0x02#8, 0x01#8] = .instr (.sub 0x02#8 0x01#8) [] ∧
    decode [0b00001000#8, 0x02#8, 0x01#8] = .instr (.mul 0x02#8 0x01#8) [] ∧
    decode [0b00001011#8, 0x02#8, 0x01#8] = .instr (.mov 0x02#8 0x01#8) [] ∧
    decode [0b00001100#8, 0x02#8, 0x01#8] = .instr (.cmp 0x02#8 0x01#8) [] ∧
    decode [0b00011000#8, 0x02#8, 0x01#8] = .instr (.and 0x02#8 0x01#8) [] ∧
    decode [0b00011001#8, 0x02#8, 0x01#8] = .instr (.or 0x02#8 0x01#8) [] ∧
    decode [0b00011010#8, 0x02#8, 0x01#8] = .instr (.xor 0x02#8 0x01#8) [] := by decide

theorem test_decode_load_store_call :
    decode [0b00000001#8, 0x12#8, 0x34#8] = .instr (.lda 0x1234#16) [] ∧
    decode [0b00000010#8, 0x12#8, 0x34#8] = .instr (.ldb 0x1234#16) [] ∧
    decode [0b00001001#8, 0x12#8, 0x34#8] = .instr (.sta 0x1234#16) [] ∧
    decode [0b00001010#8, 0x12#8, 0x34#8] = .instr (.stb 0x1234#16) [] ∧
    decode [0b00011110#8, 0x12#8, 0x34#8] = .instr (.call 0x1234#16) [] := by decide

theorem test_decode_jumps :
    decode [0b00001101#8, 0x12#8, 0x34#8] = .instr (.jmp 0x1234#16) [] ∧
    decode [0b00001110#8, 0x12#8, 0x34#8] = .instr (.jz 0x1234#16) [] ∧
    decode [0b00001111#8, 0x12#8, 0x34#8] = .instr (.jnz 0x1234#16) [] ∧
    decode [0b00010000#8, 0x12#8, 0x34#8] = .instr (.jc 0x1234#16) [] ∧
    decode [0b00010001#8, 0x12#8, 0x34#8] = .instr (.jnc 0x1234#16) [] ∧
    decode [0b00010010#8, 0x12#8, 0x34#8] = .instr (.je 0x1234#16) [] ∧
    decode [0b00010011#8, 0x12#8, 0x34#8] = .instr (.jne 0x1234#16) [] ∧
    decode [0b00010100#8, 0x12#8, 0x34#8] = .instr (.jl 0x1234#16) [] ∧
    decode [0b00010101#8, 0x12#8, 0x34#8] = .instr (.jg 0x1234#16) [] ∧
    decode [0b00010110#8, 0x12#8, 0x34#8] = .instr (.jb 0x1234#16) [] ∧
    decode [0b00010111#8, 0x12#8, 0x34#8] = .instr (.ja 0x1234#16) [] := by decide

theorem test_decode_rejects_by_name :
    decode [0x20#8, 0x00#8] = .rejected (.undefinedOpcode 0x20#8) ∧ decode [0xFE#8] = .rejected (.undefinedOpcode 0xFE#8) ∧
    decode [] = .rejected .noBytes ∧ decode [0x06#8, 0x00#8] = .rejected (.missingOperands 0x06#8) := by decide

theorem test_decode_table_word :
    decodeTableWord 24 0x061234 = some (.add 0x12#8 0x34#8) ∧ decodeTableWord 16 0x0305 = some (.ldi 0x05#8) ∧
    decodeTableWord 8 0x1F = some .ret ∧ decodeTableWord 8 0x20 = none := by decide

/-! ## One step -/

/-- The reset core with the registers and FLAGS given, and bytes at `pc` = 0x0040 (95 section 2). -/
def at40 (a b c d flags : Byte) (bytes : List Byte) : State :=
  { State.reset with a := a, b := b, c := c, d := d, flags := flags, pc := 0x0040#16 }.memWriteBytes 0x0040#16 bytes

/-- The next state of a step, if it answers one. -/
def stepped (s : State) : Option State :=
  match step s with
  | .next t => some t
  | .fault _ => none
  | .refused _ => none

/-- The fault of a step, if it raises one. -/
def faulted (s : State) : Option Fault :=
  match step s with
  | .next _ => none
  | .fault f => some f
  | .refused _ => none

/-- What a vector of 95 section 2 gives after a step, memory apart. -/
structure View where
  (a b c d flags : Byte)
  (pc sp : Word)
  halted : Bool
  deriving DecidableEq, Repr

/-- The view after a step. -/
def regsAfter (s : State) : Option View :=
  (stepped s).map fun t => ⟨t.a, t.b, t.c, t.d, t.flags, t.pc, t.sp, t.halted⟩

/-- A byte of memory after a step. -/
def byteAfter (s : State) (addr : Word) : Option Byte := (stepped s).map fun t => t.memRead addr

/-! ### Arithmetic (95 section 2.1). FLAGS: 1 Zero, 2 Carry, 4 Sign, 8 Overflow -/

theorem test_add_of_the_source : regsAfter (at40 0xFF#8 0x01#8 0#8 0#8 0#8 [0x06#8, 0#8, 1#8]) =
    some ⟨0x00#8, 0x01#8, 0#8, 0#8, 0x03#8, 0x0043#16, 0xFFFF#16, false⟩ := by decide
theorem test_add_carry_and_overflow : regsAfter (at40 0x80#8 0x80#8 0#8 0#8 0#8 [0x06#8, 0#8, 1#8]) =
    some ⟨0x00#8, 0x80#8, 0#8, 0#8, 0x0B#8, 0x0043#16, 0xFFFF#16, false⟩ := by decide
theorem test_sub_borrow_and_overflow : regsAfter (at40 0x7F#8 0xFF#8 0#8 0#8 0#8 [0x07#8, 0#8, 1#8]) =
    some ⟨0x80#8, 0xFF#8, 0#8, 0#8, 0x0E#8, 0x0043#16, 0xFFFF#16, false⟩ := by decide
theorem test_sub_same_register : regsAfter (at40 0#8 0x99#8 0#8 0#8 0x0E#8 [0x07#8, 1#8, 1#8]) =
    some ⟨0#8, 0#8, 0#8, 0#8, 0x01#8, 0x0043#16, 0xFFFF#16, false⟩ := by decide
theorem test_inc_7F_keeps_carry : regsAfter (at40 0x7F#8 0#8 0#8 0#8 0x02#8 [0x04#8]) =
    some ⟨0x80#8, 0#8, 0#8, 0#8, 0x0E#8, 0x0041#16, 0xFFFF#16, false⟩ := by decide
theorem test_inc_clears_overflow : regsAfter (at40 0#8 0#8 0#8 0#8 0x08#8 [0x04#8]) =
    some ⟨1#8, 0#8, 0#8, 0#8, 0#8, 0x0041#16, 0xFFFF#16, false⟩ := by decide
theorem test_dec_80 : regsAfter (at40 0x80#8 0#8 0#8 0#8 0#8 [0x05#8]) =
    some ⟨0x7F#8, 0#8, 0#8, 0#8, 0x08#8, 0x0041#16, 0xFFFF#16, false⟩ := by decide
theorem test_dec_00_keeps_carry : regsAfter (at40 0#8 0#8 0#8 0#8 0x02#8 [0x05#8]) =
    some ⟨0xFF#8, 0#8, 0#8, 0#8, 0x06#8, 0x0041#16, 0xFFFF#16, false⟩ := by decide
theorem test_mul_zero_low_byte_and_carry : regsAfter (at40 0x10#8 0x10#8 0#8 0#8 0#8 [0x08#8, 0#8, 1#8]) =
    some ⟨0#8, 0x10#8, 0#8, 0#8, 0x03#8, 0x0043#16, 0xFFFF#16, false⟩ := by decide
theorem test_mul_square_sign : regsAfter (at40 0#8 0#8 0x0F#8 0#8 0#8 [0x08#8, 2#8, 2#8]) =
    some ⟨0#8, 0#8, 0xE1#8, 0#8, 0x04#8, 0x0043#16, 0xFFFF#16, false⟩ := by decide
theorem test_cmp_3_and_5 : regsAfter (at40 3#8 5#8 0#8 0#8 0#8 [0x0C#8, 0#8, 1#8]) =
    some ⟨3#8, 5#8, 0#8, 0#8, 0x06#8, 0x0043#16, 0xFFFF#16, false⟩ := by decide
theorem test_cmp_80_and_01 : regsAfter (at40 0x80#8 1#8 0#8 0#8 0#8 [0x0C#8, 0#8, 1#8]) =
    some ⟨0x80#8, 1#8, 0#8, 0#8, 0x08#8, 0x0043#16, 0xFFFF#16, false⟩ := by decide

/-! ### Logic (95 section 2.2) -/

theorem test_and_clears_carry_and_overflow : regsAfter (at40 0xCC#8 0xAA#8 0#8 0#8 0x0A#8 [0x18#8, 0#8, 1#8]) =
    some ⟨0x88#8, 0xAA#8, 0#8, 0#8, 0x04#8, 0x0043#16, 0xFFFF#16, false⟩ := by decide
theorem test_or : regsAfter (at40 0xCC#8 0xAA#8 0#8 0#8 0#8 [0x19#8, 0#8, 1#8]) =
    some ⟨0xEE#8, 0xAA#8, 0#8, 0#8, 0x04#8, 0x0043#16, 0xFFFF#16, false⟩ := by decide
theorem test_xor : regsAfter (at40 0xCC#8 0xAA#8 0#8 0#8 0#8 [0x1A#8, 0#8, 1#8]) =
    some ⟨0x66#8, 0xAA#8, 0#8, 0#8, 0#8, 0x0043#16, 0xFFFF#16, false⟩ := by decide
theorem test_not : regsAfter (at40 0#8 0#8 0x0F#8 0#8 0x0A#8 [0x1B#8, 2#8]) =
    some ⟨0#8, 0#8, 0xF0#8, 0#8, 0x04#8, 0x0042#16, 0xFFFF#16, false⟩ := by decide

/-! ### Jumps (95 section 2.3): `pc` after each, for FLAGS that take it and FLAGS that do not -/

/-- `pc` after the jump with opcode `op` and target 0x1234 from 0x0040. -/
def jumpsTo (op flags : Byte) : Option Word :=
  (stepped (at40 0#8 0#8 0#8 0#8 flags [op, 0x12#8, 0x34#8])).map fun t => t.pc

theorem test_jmp : jumpsTo 0x0D#8 0x00#8 = some 0x1234#16 ∧ jumpsTo 0x0D#8 0x0F#8 = some 0x1234#16 := by decide
theorem test_jz : jumpsTo 0x0E#8 0x01#8 = some 0x1234#16 ∧ jumpsTo 0x0E#8 0x00#8 = some 0x0043#16 := by decide
theorem test_jnz : jumpsTo 0x0F#8 0x00#8 = some 0x1234#16 ∧ jumpsTo 0x0F#8 0x01#8 = some 0x0043#16 := by decide
theorem test_jc : jumpsTo 0x10#8 0x02#8 = some 0x1234#16 ∧ jumpsTo 0x10#8 0x00#8 = some 0x0043#16 := by decide
theorem test_jnc : jumpsTo 0x11#8 0x00#8 = some 0x1234#16 ∧ jumpsTo 0x11#8 0x02#8 = some 0x0043#16 := by decide
theorem test_je : jumpsTo 0x12#8 0x01#8 = some 0x1234#16 ∧ jumpsTo 0x12#8 0x00#8 = some 0x0043#16 := by decide
theorem test_jne : jumpsTo 0x13#8 0x00#8 = some 0x1234#16 ∧ jumpsTo 0x13#8 0x01#8 = some 0x0043#16 := by decide
theorem test_jl : jumpsTo 0x14#8 0x04#8 = some 0x1234#16 ∧ jumpsTo 0x14#8 0x08#8 = some 0x1234#16 ∧
    jumpsTo 0x14#8 0x00#8 = some 0x0043#16 ∧ jumpsTo 0x14#8 0x0C#8 = some 0x0043#16 := by decide
theorem test_jg : jumpsTo 0x15#8 0x00#8 = some 0x1234#16 ∧ jumpsTo 0x15#8 0x0C#8 = some 0x1234#16 ∧
    jumpsTo 0x15#8 0x01#8 = some 0x0043#16 ∧ jumpsTo 0x15#8 0x04#8 = some 0x0043#16 ∧
    jumpsTo 0x15#8 0x0D#8 = some 0x0043#16 := by decide
theorem test_jb : jumpsTo 0x16#8 0x02#8 = some 0x1234#16 ∧ jumpsTo 0x16#8 0x00#8 = some 0x0043#16 := by decide
theorem test_ja : jumpsTo 0x17#8 0x00#8 = some 0x1234#16 ∧ jumpsTo 0x17#8 0x02#8 = some 0x0043#16 ∧
    jumpsTo 0x17#8 0x01#8 = some 0x0043#16 := by decide

/-- JMP at FFFE: its last operand byte is at 0000 (95 section 2.3). -/
theorem test_jmp_operand_wraps :
    (stepped ({ State.reset with pc := 0xFFFE#16 }.memWriteBytes 0xFFFE#16 [0x0D#8, 0x00#8, 0x10#8])).map
      (fun t => t.pc) = some 0x0010#16 := by decide

/-! ### Stack and subroutines (95 section 2.4) -/

/-- The core of `at40` with `sp` and two bytes of memory. -/
def withStack (s : State) (sp at1 at2 : Word) (v1 v2 : Byte) : State :=
  ({ s with sp := sp }.memWrite at1 v1).memWrite at2 v2

theorem test_push_from_reset_sp : regsAfter (at40 5#8 0#8 0#8 0#8 0#8 [0x1C#8, 0#8]) =
    some ⟨5#8, 0#8, 0#8, 0#8, 0#8, 0x0042#16, 0xFFFE#16, false⟩ ∧
    byteAfter (at40 5#8 0#8 0#8 0#8 0#8 [0x1C#8, 0#8]) 0xFFFE#16 = some 5#8 := by decide
theorem test_push_wraps_sp :
    byteAfter { at40 0#8 0x42#8 0#8 0#8 0#8 [0x1C#8, 1#8] with sp := 0#16 } 0xFFFF#16 = some 0x42#8 := by decide
theorem test_pop : regsAfter (withStack (at40 0#8 0#8 0#8 0#8 0#8 [0x1D#8, 1#8]) 0xFFFE#16 0xFFFE#16 0x0100#16 5#8 0#8) =
    some ⟨0#8, 5#8, 0#8, 0#8, 0#8, 0x0042#16, 0xFFFF#16, false⟩ := by decide
theorem test_pop_from_empty_stack_wraps :
    regsAfter (withStack (at40 0x11#8 0#8 0#8 0#8 0#8 [0x1D#8, 0#8]) 0xFFFF#16 0xFFFF#16 0x0100#16 0x9C#8 0#8) =
    some ⟨0x9C#8, 0#8, 0#8, 0#8, 0#8, 0x0042#16, 0x0000#16, false⟩ := by decide
theorem test_call_at_FFFD :
    (stepped ({ State.reset with pc := 0xFFFD#16, sp := 0x8000#16 }.memWriteBytes 0xFFFD#16
        [0x1E#8, 0x12#8, 0x34#8])).map (fun t => (t.pc, t.sp, t.memRead 0x7FFE#16, t.memRead 0x7FFF#16)) =
    some (0x1234#16, 0x7FFE#16, 0x00#8, 0x00#8) := by decide
theorem test_call_overwrites_its_own_bytes :
    (stepped { at40 0#8 0#8 0#8 0#8 0#8 [0x1E#8, 0x00#8, 0x50#8] with sp := 0x0043#16 }).map
      (fun t => (t.pc, t.sp, t.memRead 0x0041#16, t.memRead 0x0042#16)) =
    some (0x0050#16, 0x0041#16, 0x43#8, 0x00#8) := by decide
theorem test_ret_low_then_high :
    regsAfter (withStack (at40 0#8 0#8 0#8 0#8 0#8 [0x1F#8]) 0x7FFE#16 0x7FFE#16 0x7FFF#16 0x34#8 0x12#8) =
    some ⟨0#8, 0#8, 0#8, 0#8, 0#8, 0x1234#16, 0x8000#16, false⟩ := by decide
theorem test_ret_from_empty_stack :
    regsAfter (withStack (at40 0#8 0#8 0#8 0#8 0#8 [0x1F#8]) 0xFFFF#16 0xFFFF#16 0x0000#16 0xCD#8 0xAB#8) =
    some ⟨0#8, 0#8, 0#8, 0#8, 0#8, 0xABCD#16, 0x0001#16, false⟩ := by decide

/-! ### Data transfer (95 section 2.5) -/

theorem test_ldi_writes_no_flag : regsAfter (at40 0x33#8 0#8 0#8 0#8 0#8 [0x03#8, 0x00#8]) =
    some ⟨0#8, 0#8, 0#8, 0#8, 0#8, 0x0042#16, 0xFFFF#16, false⟩ := by decide
theorem test_lda_own_opcode_byte : regsAfter (at40 0#8 0#8 0#8 0#8 0#8 [0x01#8, 0x00#8, 0x40#8]) =
    some ⟨1#8, 0#8, 0#8, 0#8, 0#8, 0x0043#16, 0xFFFF#16, false⟩ := by decide
theorem test_ldb_FFFF : regsAfter ((at40 0#8 0#8 0#8 0#8 0#8 [0x02#8, 0xFF#8, 0xFF#8]).memWrite 0xFFFF#16 7#8) =
    some ⟨0#8, 7#8, 0#8, 0#8, 0#8, 0x0043#16, 0xFFFF#16, false⟩ := by decide
theorem test_sta_own_operand_byte :
    byteAfter (at40 0xEE#8 0#8 0#8 0#8 0#8 [0x09#8, 0x00#8, 0x42#8]) 0x0042#16 = some 0xEE#8 := by decide
theorem test_stb : byteAfter (at40 0#8 7#8 0#8 0#8 0#8 [0x0A#8, 0x02#8, 0x01#8]) 0x0201#16 = some 7#8 := by decide
theorem test_mov : regsAfter (at40 0#8 9#8 0#8 0#8 0x01#8 [0x0B#8, 2#8, 1#8]) =
    some ⟨0#8, 9#8, 9#8, 0#8, 0x01#8, 0x0043#16, 0xFFFF#16, false⟩ := by decide

/-! ### System (95 section 2.6), the fatal vectors, the halted core -/

theorem test_nop : regsAfter (at40 1#8 2#8 3#8 4#8 0x05#8 [0x00#8]) =
    some ⟨1#8, 2#8, 3#8, 4#8, 0x05#8, 0x0041#16, 0xFFFF#16, false⟩ := by decide
theorem test_hlt_at_FFFF : regsAfter ({ State.reset with pc := 0xFFFF#16 }.memWriteBytes 0xFFFF#16 [0xFF#8]) =
    some ⟨0#8, 0#8, 0#8, 0#8, 0#8, 0x0000#16, 0xFFFF#16, true⟩ := by decide
theorem test_undefined_opcode_halts :
    regsAfter (at40 0x2A#8 0#8 0#8 0#8 0#8 [0x42#8, 0x06#8, 0x00#8]) =
      some ⟨0x2A#8, 0#8, 0#8, 0#8, 0#8, 0x0041#16, 0xFFFF#16, true⟩ ∧
    (stepped (at40 0x2A#8 0#8 0#8 0#8 0#8 [0x42#8])).map (fun t => t.implicitHaltOp) = some (some 0x42#8) := by decide
theorem test_fatal_names_rd_first : faulted (at40 1#8 2#8 0#8 0#8 0#8 [0x06#8, 9#8, 8#8]) =
    some (.fatalRegIndex ⟨0x0040#16, 0x06#8, 9#8⟩) := by decide
theorem test_fatal_names_rs : faulted (at40 0#8 0#8 0#8 1#8 0#8 [0x08#8, 3#8, 7#8]) =
    some (.fatalRegIndex ⟨0x0040#16, 0x08#8, 7#8⟩) := by decide
theorem test_fatal_of_one_register : faulted (at40 0#8 0#8 0#8 0#8 0#8 [0x1D#8, 0xFF#8]) =
    some (.fatalRegIndex ⟨0x0040#16, 0x1D#8, 0xFF#8⟩) := by decide

/-! ### Placing a table word, loading an image -/

theorem test_with_fetch_word :
    (stepped (State.reset.withFetchWord 24 0x1E1234)).map (fun t => (t.pc, t.sp, t.memRead 0xFFFD#16)) =
      some (0x1234#16, 0xFFFD#16, 0x03#8) ∧
    (stepped (State.reset.withFetchWord 8 0x04)).map (fun t => t.a) = some 0x01#8 := by decide

theorem test_load_image_is_canonical :
    imageCells 0 [0x03#8, 0x00#8, 0xFF#8] = [(0, 0x03#8), (2, 0xFF#8)] ∧
    Memory.wf (imageCells 0 [0x03#8, 0x00#8, 0xFF#8]) = true := by decide

/-! ### The assembly language: the image of 95 P3's last lines, an unknown mnemonic (E3), label cases (R71) -/

theorem test_assemble_labels_and_comments :
    (assemble "CALL MUL ; forward\nHLT\nmul: MUL A, B   ; A = A * B\nRET").toOption =
      some [0x1E#8, 0x00#8, 0x04#8, 0xFF#8, 0x08#8, 0x00#8, 0x01#8, 0x1F#8] := by decide
theorem test_assemble_unknown_mnemonic : (assemble "FOO").toOption = none := by decide
theorem test_assemble_register_literal : (assemble "PUSH 4").toOption = some [0x1C#8, 0x04#8] := by decide

/-! ## Witnesses: a state and operands that meet the hypotheses of each statement, at the values where clauses meet -/

/-- A core whose registers are all different, with bytes at `pc`. -/
def w (bytes : List Byte) : State := at40 0x80#8 0x01#8 0x7F#8 0xFF#8 0x05#8 bytes

theorem witness_LoadPlacesTheImage :
    (List.replicate 65536 0xFF#8).length ≤ 65536 ∧ 65536 < (List.replicate 65537 0xFF#8).length := by
  simp only [List.length_replicate]; decide
theorem witness_DecodedBytesAreTheEncoding : decode [0x0B#8, 0x02#8, 0xFF#8, 0x00#8] = .instr (.mov 0x02#8 0xFF#8) [0x00#8] := by
  decide
theorem witness_LengthIsFixedByTheOpcode :
    decode [0xFF#8] = .instr .hlt [] ∧ decode [0x1E#8, 0xFF#8, 0xFE#8] = .instr (.call 0xFFFE#16) [] ∧
    opcodeLength 0x1F#8 = some 1 ∧ opcodeLength 0x1E#8 = some 3 ∧ opcodeLength 0x20#8 = none := by decide
theorem witness_StepRunsTheDecodedInstruction :
    (w [0x06#8, 0#8, 3#8]).halted = false ∧ (w [0x06#8, 0#8, 3#8]).fatal = none ∧
    decode [(w [0x06#8, 0#8, 3#8]).memRead 0x0040#16, (w [0x06#8, 0#8, 3#8]).memRead 0x0041#16,
      (w [0x06#8, 0#8, 3#8]).memRead 0x0042#16] = .instr (.add 0#8 3#8) [] := by decide
theorem witness_StepOfHaltedCoreIsNoOp :
    { w [] with halted := true }.halted = true ∧ { w [] with halted := true }.fatal = none := by decide
theorem witness_StepOfFatalCoreFaults :
    (State.reset.enterFatal ⟨0x0002#16, 0x1C#8, 0x04#8⟩).fatal = some ⟨0x0002#16, 0x1C#8, 0x04#8⟩ := by decide
theorem witness_UndefinedOpcodeHaltsTheCore :
    (∀ op ∈ [0x20#8, 0xFE#8], (w [op]).halted = false ∧ (w [op]).fatal = none ∧
      0x20 ≤ ((w [op]).memRead (w [op]).pc).toNat ∧ ((w [op]).memRead (w [op]).pc).toNat ≤ 0xFE) := by decide
theorem witness_NopOnlyAdvancesPc :
    (w [0x00#8]).halted = false ∧ (w [0x00#8]).fatal = none ∧ (w [0x00#8]).memRead (w [0x00#8]).pc = 0x00#8 := by decide
theorem witness_HltHaltsTheCore :
    (w [0xFF#8]).halted = false ∧ (w [0xFF#8]).fatal = none ∧ (w [0xFF#8]).memRead (w [0xFF#8]).pc = 0xFF#8 ∧
    ∃ t, exec .hlt (w []) = .next t ∧ t.halted ≠ (w []).halted := ⟨by decide, by decide, by decide, _, rfl, by decide⟩
theorem witness_StepGoesOnOrRaisesFatalRegIndex :
    (w [0x04#8]).fatal = none ∧ (stepped (w [0x04#8])).isSome = true ∧ (w [0x1C#8, 4#8]).fatal = none ∧
    faulted (w [0x1C#8, 4#8]) = some (.fatalRegIndex ⟨0x0040#16, 0x1C#8, 4#8⟩) := by decide
/-- For the bad-operand clauses of ADD, SUB, MUL, CMP, AND, OR, XOR and NOT. -/
theorem witness_bad_register_bytes : 3 < (0x04#8).toNat ∧ 3 < (0xFF#8).toNat ∧ ¬ 3 < (0x03#8).toNat := by decide
theorem witness_OverflowIsSignedOutOfRange :
    (∃ t, exec (.add (indexOfReg .C) (indexOfReg .B)) (w []) = .next t ∧ t.flagO = true) ∧
    (∃ t, exec (.add (indexOfReg .C) (indexOfReg .D)) (w []) = .next t ∧ t.flagO = false) ∧
    (∃ t, exec (.sub (indexOfReg .A) (indexOfReg .B)) (w []) = .next t ∧ t.flagO = true) ∧
    (∃ t, exec .inc { w [] with a := 0x7F#8 } = .next t ∧ t.flagO = true) ∧
    (∃ t, exec .dec (w []) = .next t ∧ t.flagO = true) :=
  ⟨⟨_, rfl, by decide⟩, ⟨_, rfl, by decide⟩, ⟨_, rfl, by decide⟩, ⟨_, rfl, by decide⟩, ⟨_, rfl, by decide⟩⟩
theorem witness_AndOrXorWriteResultAndFlags :
    (Instr.and 0#8 1#8 = .and (indexOfReg .A) (indexOfReg .B) ∧ 0x00#8 = (w []).readReg .A &&& (w []).readReg .B) ∧
    (Instr.or 0#8 1#8 = .or (indexOfReg .A) (indexOfReg .B) ∧ 0x81#8 = (w []).readReg .A ||| (w []).readReg .B) ∧
    (Instr.xor 0#8 3#8 = .xor (indexOfReg .A) (indexOfReg .D) ∧ 0x7F#8 = (w []).readReg .A ^^^ (w []).readReg .D) := by
  decide
theorem witness_AliasesDoTheSameWithOwnOpcodes :
    (targetOperand [] "0xFFFF".toList).toOption = some 0xFFFF#16 ∧
    (targetOperand [("loop".toList, 7)] "LOOP".toList).toOption = some 0x0007#16 := by decide
theorem witness_StoresWriteOneByte :
    (Instr.sta 0xFFFF#16 = .sta 0xFFFF#16 ∧ 0x80#8 = (w []).a) ∧ (Instr.stb 0x0000#16 = .stb 0x0000#16 ∧ 0x01#8 = (w []).b) := by
  decide
theorem witness_CallThenRetRoundTrips :
    ∃ t, exec (.call 0x1234#16) (w []) = .next t ∧ { t with a := 0x55#8 }.sp = t.sp ∧
      { t with a := 0x55#8 }.memRead t.sp = t.memRead t.sp ∧
      { t with a := 0x55#8 }.memRead (t.sp + 1#16) = t.memRead (t.sp + 1#16) := ⟨_, rfl, by decide⟩
theorem witness_BadRegisterByteRaisesFatal :
    (Instr.add 0x04#8 0x00#8).wellFormed = false ∧ (Instr.xor 0x03#8 0xFF#8).wellFormed = false ∧
    regOfIndex 0x03#8 = some .D ∧ regOfIndex 0x04#8 = none ∧ registerByteOk 0xFF#8 = false := by decide
theorem witness_FatalRecordNamesTheFirstBadByte :
    ({ w [] with pc := 0x0001#16 }.pc = 0xFFFE#16 + 3#16 ∧ 4 ≤ (0x04#8).toNat) ∧
    ({ w [] with pc := 0x0001#16 }.pc = 0xFFFE#16 + 3#16 ∧ (0x03#8).toNat ≤ 3 ∧ 4 ≤ (0x04#8).toNat) ∧
    ({ w [] with pc := 0x0001#16 }.pc = 0xFFFF#16 + 2#16 ∧ 4 ≤ (0xFF#8).toNat) := by decide
theorem witness_WellFormedInstructionsComplete :
    (Instr.add 0x03#8 0x03#8).wellFormed = true ∧ (Instr.push 0x03#8).wellFormed = true ∧
    (Instr.ldi 0xFF#8).wellFormed = true := by decide
theorem witness_FatalStateIsTerminal :
    step (w [0x1C#8, 4#8]) = .fault (.fatalRegIndex ⟨0x0040#16, 0x1C#8, 4#8⟩) := rfl
theorem witness_OnlyStackInstructionsMoveSp :
    (∃ t, exec (.push 0#8) (w []) = .next t ∧ t.sp ≠ (w []).sp) ∧ (∃ t, exec (.pop 0#8) (w []) = .next t ∧ t.sp ≠ (w []).sp) ∧
    (∃ t, exec (.call 0#16) (w []) = .next t ∧ t.sp ≠ (w []).sp) ∧ ∃ t, exec .ret (w []) = .next t ∧ t.sp ≠ (w []).sp :=
  ⟨⟨_, rfl, by decide⟩, ⟨_, rfl, by decide⟩, ⟨_, rfl, by decide⟩, ⟨_, rfl, by decide⟩⟩
theorem witness_OnlyStoresAndPushesWriteMemory :
    (∃ t, exec (.sta 0x0100#16) (w []) = .next t ∧ t.mem ≠ (w []).mem) ∧
    (∃ t, exec (.stb 0x0100#16) (w []) = .next t ∧ t.mem ≠ (w []).mem) ∧
    (∃ t, exec (.push 0#8) (w []) = .next t ∧ t.mem ≠ (w []).mem) ∧
    ∃ t, exec (.call 0#16) (w []) = .next t ∧ t.mem ≠ (w []).mem :=
  ⟨⟨_, rfl, by decide⟩, ⟨_, rfl, by decide⟩, ⟨_, rfl, by decide⟩, ⟨_, rfl, by decide⟩⟩
theorem witness_OnlyAluInstructionsWriteFlags :
    (∃ t, exec .inc (w []) = .next t ∧ t.flags ≠ (w []).flags) ∧
    ∃ t, exec (.cmp 1#8 0#8) (w []) = .next t ∧ t.flagC ≠ (w []).flagC := ⟨⟨_, rfl, by decide⟩, ⟨_, rfl, by decide⟩⟩
theorem witness_ReservedFlagBitsAreNeverWritten :
    ∃ t, exec (.sub 0#8 1#8) { w [] with flags := 0xA5#8 } = .next t ∧ t.flags ≠ 0xA5#8 := ⟨_, rfl, by decide⟩
theorem witness_OnlyTransfersWritePc :
    (∃ t, exec (.jmp 0x1234#16) (w []) = .next t ∧ t.pc ≠ (w []).pc) ∧ (∃ t, exec (.call 0#16) (w []) = .next t ∧ t.pc ≠ (w []).pc) ∧
    ∃ t, exec .ret (w []) = .next t ∧ t.pc ≠ (w []).pc := ⟨⟨_, rfl, by decide⟩, ⟨_, rfl, by decide⟩, ⟨_, rfl, by decide⟩⟩
theorem witness_StepsNeverClearHalted :
    (∃ t, step (w [0xFF#8]) = .next t ∧ t.halted = true) ∧ ∃ t, step { w [] with halted := true } = .next t ∧ t.halted = true :=
  ⟨⟨_, rfl, by decide⟩, ⟨_, rfl, by decide⟩⟩
theorem witness_StepKeepsTheInvariant :
    (w [0x06#8, 0#8, 3#8]).inv = true ∧ (∃ t, step (w [0x06#8, 0#8, 3#8]) = .next t) ∧ (w [0x42#8]).inv = true ∧
    ∃ t, step (w [0x42#8]) = .next t := ⟨by decide, ⟨_, rfl⟩, by decide, ⟨_, rfl⟩⟩
theorem witness_ReservedFlagBitsAreUnobservable :
    (0xF5#8).extractLsb' 0 4 = (w []).flags.extractLsb' 0 4 ∧ 0xF5#8 ≠ (w []).flags ∧
    (∃ t, step (w [0x0E#8, 0#8, 0#8]) = .next t) ∧ ∃ r, step (w [0x1C#8, 4#8]) = .fault r :=
  ⟨by decide, by decide, ⟨_, rfl⟩, ⟨_, rfl⟩⟩
theorem witness_StepMemoryIsItsTransactions :
    ∃ t, step (w [0x1E#8, 0#8, 0#8]) = .next t ∧ t.mem ≠ (w [0x1E#8, 0#8, 0#8]).mem ∧
      (stepTransactions (w [0x1E#8, 0#8, 0#8])).length = 5 := ⟨_, rfl, by decide⟩
theorem witness_StepReadsMemoryBeforeItWrites :
    .read 0x0040#16 0x09#8 ∈ stepTransactions (w [0x09#8, 0x00#8, 0x40#8]) ∧
    .read 0xFFFF#16 0x00#8 ∈ stepTransactions (w [0x1D#8, 0x00#8]) := by decide
theorem witness_StoredByteIsFetchedNext :
    (w [0x09#8, 0x00#8, 0x43#8]).halted = false ∧ (w [0x09#8, 0x00#8, 0x43#8]).fatal = none ∧
    decode [(w [0x09#8, 0x00#8, 0x43#8]).memRead 0x0040#16, (w [0x09#8, 0x00#8, 0x43#8]).memRead 0x0041#16,
      (w [0x09#8, 0x00#8, 0x43#8]).memRead 0x0042#16] = .instr (.sta ((w [0x09#8, 0x00#8, 0x43#8]).pc + 3#16)) [] := by decide
theorem witness_EndedRunStaysEnded :
    (∃ t, run 1 (w [0xFF#8]) = .halted t) ∧ run 1 (w [0x1C#8, 4#8]) = .fatal ⟨0x0040#16, 0x1C#8, 4#8⟩ := ⟨⟨_, rfl⟩, rfl⟩
theorem witness_JumpToItselfHangs :
    (w [0x0D#8, 0x00#8, 0x40#8]).halted = false ∧ (w [0x0D#8, 0x00#8, 0x40#8]).fatal = none ∧
    decode [(w [0x0D#8, 0x00#8, 0x40#8]).memRead 0x0040#16, (w [0x0D#8, 0x00#8, 0x40#8]).memRead 0x0041#16,
      (w [0x0D#8, 0x00#8, 0x40#8]).memRead 0x0042#16] = .instr (.jmp (w [0x0D#8, 0x00#8, 0x40#8]).pc) [] := by decide
theorem witness_ZeroMemoryHangs :
    State.reset.halted = false ∧ State.reset.fatal = none ∧ ∀ k : Word, State.reset.memRead k = 0x00#8 :=
  ⟨rfl, rfl, fun _ => rfl⟩
theorem witness_PlacedWordIsWhatStepRuns :
    decodeTableWord 24 0x0BFF00 = some (.mov 0xFF#8 0x00#8) ∧ decodeTableWord 8 0xFF = some .hlt := by decide
theorem witness_AssembledLengthIsTheSumOfLines :
    ∃ lines bytes, parseLines ["x: LDI 5".toList, "JMP x".toList] = .ok lines ∧
      emitLines [("x".toList, 0)] lines = .ok bytes ∧ bytes = [0x03#8, 0x05#8, 0x0D#8, 0x00#8, 0x00#8] :=
  ⟨_, _, rfl, rfl, by decide⟩

end Sys2Proof.Tests
end

section
/-! SUPPORT. Cores that differ only in FLAGS bits 7:4 (10_state.md R31): every read agrees, every operation of the
model keeps them agreeing, and so do the fetch, every instruction and every step. -/

namespace Sys2Proof.Machine

/-! ## The relation -/

/-- `t` is `s` but for FLAGS, and their low four bits of FLAGS are the same. -/
def AgreeButReserved (s t : State) : Prop :=
  ∃ g : Byte, t = { s with flags := g } ∧ g.extractLsb' 0 4 = s.flags.extractLsb' 0 4

/-- Two outcomes are of one kind: next states that agree but for FLAGS bits 7:4, or the same fault, or the same
refusal. -/
inductive OutcomesAgree : Result → Result → Prop where
  | next {s t : State} (h : AgreeButReserved s t) : OutcomesAgree (.next s) (.next t)
  | fault (r : Fault) : OutcomesAgree (.fault r) (.fault r)
  | refused (r : Refusal) : OutcomesAgree (.refused r) (.refused r)

theorem OutcomesAgree.exists_of_next {s : State} {out : Result} (h : OutcomesAgree (.next s) out) :
    ∃ t, out = .next t ∧ AgreeButReserved s t := by
  cases h with
  | next h => exact ⟨_, rfl, h⟩

theorem OutcomesAgree.eq_of_fault {r : Fault} {out : Result} (h : OutcomesAgree (.fault r) out) : out = .fault r := by
  cases h with
  | fault => rfl

/-! ## What every instruction reads is the same -/

/-- The low four bits of FLAGS decide each of them. -/
theorem getLsbD_eq_of_low_eq {f g : Byte} (h : g.extractLsb' 0 4 = f.extractLsb' 0 4) {k : Nat} (hk : k < 4) :
    g.getLsbD k = f.getLsbD k := by
  simpa [BitVec.getLsbD_extractLsb', hk] using congrArg (fun x : BitVec 4 => x.getLsbD k) h

namespace AgreeButReserved

variable {s t : State} (h : AgreeButReserved s t)
include h

theorem readReg (q : Reg) : t.readReg q = s.readReg q := by
  obtain ⟨g, rfl, -⟩ := h
  rfl

theorem memRead (addr : Word) : t.memRead addr = s.memRead addr := by
  obtain ⟨g, rfl, -⟩ := h
  rfl

theorem pc_eq : t.pc = s.pc := by
  obtain ⟨g, rfl, -⟩ := h
  rfl

theorem sp_eq : t.sp = s.sp := by
  obtain ⟨g, rfl, -⟩ := h
  rfl

theorem halted_eq : t.halted = s.halted := by
  obtain ⟨g, rfl, -⟩ := h
  rfl

theorem fatal_eq : t.fatal = s.fatal := by
  obtain ⟨g, rfl, -⟩ := h
  rfl

theorem flagBit {k : Nat} (hk : k < 4) : t.flags.getLsbD k = s.flags.getLsbD k := by
  obtain ⟨g, rfl, hg⟩ := h
  exact getLsbD_eq_of_low_eq hg hk

theorem flagZ : t.flagZ = s.flagZ := h.flagBit (by decide)
theorem flagC : t.flagC = s.flagC := h.flagBit (by decide)
theorem flagS : t.flagS = s.flagS := h.flagBit (by decide)
theorem flagO : t.flagO = s.flagO := h.flagBit (by decide)

/-! ## What every instruction writes keeps the states agreeing -/

/-- An operation that neither reads nor writes FLAGS. -/
theorem map (op : State → State)
    (reads : ∀ (u : State) (g : Byte), op { u with flags := g } = { op u with flags := g })
    (keeps : ∀ u, (op u).flags = u.flags) : AgreeButReserved (op s) (op t) := by
  obtain ⟨g, rfl, hg⟩ := h
  exact ⟨g, reads s g, hg.trans (by rw [keeps])⟩

theorem writeReg (r : Reg) (v : Byte) : AgreeButReserved (s.writeReg r v) (t.writeReg r v) :=
  h.map (·.writeReg r v) (fun _ _ => by cases r <;> rfl) (by simp)

theorem memWrite (addr : Word) (v : Byte) : AgreeButReserved (s.memWrite addr v) (t.memWrite addr v) :=
  h.map (·.memWrite addr v) (fun _ _ => rfl) (by simp)

theorem jump (target : Word) : AgreeButReserved (s.jump target) (t.jump target) :=
  h.map (·.jump target) (fun _ _ => rfl) (by simp)

theorem pushByte (v : Byte) : AgreeButReserved (s.pushByte v) (t.pushByte v) :=
  h.map (·.pushByte v) (fun _ _ => rfl) (by simp)

theorem popByte : AgreeButReserved s.popByte.2 t.popByte.2 :=
  h.map (·.popByte.2) (fun _ _ => rfl) (by simp)

theorem halt : AgreeButReserved s.halt t.halt := h.map (·.halt) (fun _ _ => rfl) (by simp)

theorem implicitHalt (op : Byte) : AgreeButReserved (s.implicitHalt op) (t.implicitHalt op) :=
  h.map (·.implicitHalt op) (fun _ _ => rfl) (by simp)

/-- A write of one of the four flags leaves the low four bits of FLAGS the same on both sides. -/
theorem setFlagBit {k : Nat} (hk : k < 4) (v : Bool) :
    AgreeButReserved { s with flags := setFlagBit k v s.flags } { t with flags := setFlagBit k v t.flags } := by
  obtain ⟨g, rfl, hg⟩ := h
  refine ⟨Machine.setFlagBit k v g, rfl, BitVec.eq_of_getLsbD_eq fun j hj => ?_⟩
  simp only [BitVec.getLsbD_extractLsb', hj, decide_true, Bool.true_and, Nat.zero_add]
  rw [setFlagBit_getLsbD k j v g (by omega) (by omega), setFlagBit_getLsbD k j v s.flags (by omega) (by omega),
    getLsbD_eq_of_low_eq hg hj]

theorem setZ (v : Bool) : AgreeButReserved (s.setZ v) (t.setZ v) := h.setFlagBit (by decide) v
theorem setC (v : Bool) : AgreeButReserved (s.setC v) (t.setC v) := h.setFlagBit (by decide) v
theorem setS (v : Bool) : AgreeButReserved (s.setS v) (t.setS v) := h.setFlagBit (by decide) v
theorem setO (v : Bool) : AgreeButReserved (s.setO v) (t.setO v) := h.setFlagBit (by decide) v

theorem setZS (r : Byte) : AgreeButReserved (s.setZS r) (t.setZS r) := (h.setZ _).setS _

theorem setAddFlags (x y r : Byte) : AgreeButReserved (s.setAddFlags x y r) (t.setAddFlags x y r) :=
  ((h.setZS r).setC _).setO _

theorem setSubFlags (x y r : Byte) : AgreeButReserved (s.setSubFlags x y r) (t.setSubFlags x y r) :=
  ((h.setZS r).setC _).setO _

theorem setLogicFlags (r : Byte) : AgreeButReserved (s.setLogicFlags r) (t.setLogicFlags r) :=
  ((h.setZS r).setC _).setO _

/-! ## Register checks and jumps -/

theorem checkReg (i : Instr) (index : Byte) {go go' : Reg → Result} (hgo : ∀ r, OutcomesAgree (go r) (go' r)) :
    OutcomesAgree (checkReg i index s go) (checkReg i index t go') := by
  unfold Machine.checkReg
  cases regOfIndex index with
  | some r => exact hgo r
  | none =>
    have hinfo : fatalInfoOf i index t = fatalInfoOf i index s := by simp [fatalInfoOf, h.pc_eq]
    simp only [raiseFatal, hinfo]
    exact .fault _

theorem checkRegs (i : Instr) (rd rs : Byte) {go go' : Reg → Reg → Result}
    (hgo : ∀ d e, OutcomesAgree (go d e) (go' d e)) :
    OutcomesAgree (checkRegs i rd rs s go) (checkRegs i rd rs t go') :=
  h.checkReg i rd fun d => h.checkReg i rs fun e => hgo d e

theorem jumpIf {taken taken' : Bool} (htaken : taken' = taken) (target : Word) :
    OutcomesAgree (jumpIf taken target s) (jumpIf taken' target t) := by
  subst htaken
  cases taken' with
  | false => exact .next h
  | true => exact .next (h.jump target)

/-- The conditions of the jumps (42_control_flow.md R122) read the four flags only. -/
theorem cond_eq : condZero t = condZero s ∧ condNotZero t = condNotZero s ∧ condCarry t = condCarry s ∧
    condNotCarry t = condNotCarry s ∧ condLess t = condLess s ∧ condGreater t = condGreater s ∧
    condAbove t = condAbove s := by
  simp [condZero, condNotZero, condCarry, condNotCarry, condLess, condGreater, condAbove, h.flagZ, h.flagC, h.flagS,
    h.flagO]

/-! ## Instructions, the fetch and the step -/

theorem exec (i : Instr) : OutcomesAgree (exec i s) (exec i t) := by
  obtain ⟨hz, hnz, hc, hnc, hl, hg, ha⟩ := h.cond_eq
  cases i with
  | nop => exact .next h
  | hlt => exact .next h.halt
  | ldi imm8 => exact .next (h.writeReg .A imm8)
  | lda addr => simpa only [Machine.exec, execLda, h.memRead] using .next (h.writeReg .A _)
  | ldb addr => simpa only [Machine.exec, execLdb, h.memRead] using .next (h.writeReg .B _)
  | sta addr => simpa only [Machine.exec, execSta, h.readReg] using .next (h.memWrite addr _)
  | stb addr => simpa only [Machine.exec, execStb, h.readReg] using .next (h.memWrite addr _)
  | mov rd rs => exact h.checkRegs _ rd rs fun d e => by simpa only [h.readReg] using .next (h.writeReg d _)
  | add rd rs =>
    exact h.checkRegs _ rd rs fun d e => by simpa only [h.readReg] using .next ((h.writeReg d _).setAddFlags _ _ _)
  | sub rd rs =>
    exact h.checkRegs _ rd rs fun d e => by simpa only [h.readReg] using .next ((h.writeReg d _).setSubFlags _ _ _)
  | cmp rd rs =>
    exact h.checkRegs _ rd rs fun d e => by simpa only [h.readReg] using .next (h.setSubFlags _ _ _)
  | mul rd rs =>
    exact h.checkRegs _ rd rs fun d e => by
      simpa only [h.readReg] using .next ((((h.writeReg d _).setZS _).setC _).setO _)
  | inc => simpa only [Machine.exec, execInc, h.readReg] using .next (((h.writeReg .A _).setZS _).setO _)
  | dec => simpa only [Machine.exec, execDec, h.readReg] using .next (((h.writeReg .A _).setZS _).setO _)
  | and rd rs =>
    exact h.checkRegs _ rd rs fun d e => by simpa only [h.readReg] using .next ((h.writeReg d _).setLogicFlags _)
  | or rd rs =>
    exact h.checkRegs _ rd rs fun d e => by simpa only [h.readReg] using .next ((h.writeReg d _).setLogicFlags _)
  | xor rd rs =>
    exact h.checkRegs _ rd rs fun d e => by simpa only [h.readReg] using .next ((h.writeReg d _).setLogicFlags _)
  | not r => exact h.checkReg _ r fun d => by simpa only [h.readReg] using .next ((h.writeReg d _).setLogicFlags _)
  | jmp addr => exact .next (h.jump addr)
  | jz addr => exact h.jumpIf hz addr
  | jnz addr => exact h.jumpIf hnz addr
  | jc addr => exact h.jumpIf hc addr
  | jnc addr => exact h.jumpIf hnc addr
  | je addr => exact h.jumpIf hz addr
  | jne addr => exact h.jumpIf hnz addr
  | jl addr => exact h.jumpIf hl addr
  | jg addr => exact h.jumpIf hg addr
  | jb addr => exact h.jumpIf hc addr
  | ja addr => exact h.jumpIf ha addr
  | push r => exact h.checkReg _ r fun q => by simpa only [h.readReg] using .next (h.pushByte _)
  | pop r =>
    exact h.checkReg _ r fun q => by
      simpa only [State.popByte_value, h.memRead, h.sp_eq] using .next (h.popByte.writeReg q _)
  | call addr =>
    simpa only [Machine.exec, execCall, h.pc_eq] using .next (((h.pushByte _).pushByte _).jump addr)
  | ret =>
    simpa only [Machine.exec, execRet, State.popByte_value, State.popByte_sp, State.popByte_memRead, h.memRead,
      h.sp_eq] using .next (h.popByte.popByte.jump _)

/-- Both cores fetch the same, and agree after it. -/
theorem fetch : (fetch t).1 = (fetch s).1 ∧ AgreeButReserved (fetch s).2 (fetch t).2 := by
  obtain ⟨g, rfl, hg⟩ := h
  have hfetch : Machine.fetch { s with flags := g } =
      ((Machine.fetch s).1, { (Machine.fetch s).2 with flags := g }) := by
    unfold Machine.fetch fetchByte State.memRead
    dsimp only
    split <;> rfl
  obtain ⟨n, hn⟩ := fetch_frame s
  rw [hfetch]
  exact ⟨rfl, g, rfl, by rw [hn]; exact hg⟩

theorem step : OutcomesAgree (step s) (step t) := by
  cases hf : s.fatal with
  | some info =>
    rw [step_fatal s info hf, step_fatal t info (h.fatal_eq.trans hf)]
    exact .fault _
  | none =>
    cases hh : s.halted with
    | true =>
      rw [step_halted s hf hh, step_halted t (h.fatal_eq.trans hf) (h.halted_eq.trans hh)]
      exact .next h
    | false =>
      rw [step_running s hf hh, step_running t (h.fatal_eq.trans hf) (h.halted_eq.trans hh)]
      obtain ⟨hfound, hafter⟩ := h.fetch
      generalize Machine.fetch s = fs at hfound hafter ⊢
      generalize Machine.fetch t = ft at hfound hafter ⊢
      obtain ⟨found, u⟩ := fs
      obtain ⟨_, v⟩ := ft
      cases hfound
      cases found with
      | instr i => exact hafter.exec i
      | undefinedOpcode op => exact .next (hafter.implicitHalt op)

end AgreeButReserved

/-- Settles O49: the two states agree but for FLAGS bits 7:4, and every step keeps them so. -/
theorem reservedFlagBitsAreUnobservable : Obligations.ReservedFlagBitsAreUnobservable := by
  intro s f hf
  have hstep : OutcomesAgree (step s) (step { s with flags := f }) := AgreeButReserved.step ⟨f, rfl, hf⟩
  refine ⟨fun t ht => ?_, fun r hr => (hr ▸ hstep).eq_of_fault⟩
  obtain ⟨_, hout, g, rfl, hg⟩ := (ht ▸ hstep).exists_of_next
  exact ⟨g, hout, hg⟩

end Sys2Proof.Machine
end

section
/-! SUPPORT. What an instruction that completes can have done to the state, said once, and the frames that follow from
it: who writes `sp`, FLAGS, `pc` and the fatal state (10_state.md R25, R28, R30, R31, R34). -/

namespace Sys2Proof.Machine

/-! ## The effect of an instruction -/

/-- `Effect s i t`: from `s`, instruction `i` can leave `t`. The values written may be any; which parts of the state
are written, and by which instructions, is what a frame needs. -/
inductive Effect (s : State) : Instr → State → Prop where
  /-- NOP (R150). -/
  | nop : Effect s .nop s
  /-- HLT (R151). -/
  | hlt : Effect s .hlt s.halt
  /-- LDA, LDB, LDI and MOV write one register (R140 to R142, R145). -/
  | load (i : Instr) (r : Reg) (v : Byte) (hi : opcodeOf i ∈ [0x01#8, 0x02#8, 0x03#8, 0x0B#8]) :
      Effect s i (s.writeReg r v)
  /-- STA (R143). -/
  | sta (addr : Word) (v : Byte) : Effect s (.sta addr) (s.memWrite addr v)
  /-- STB (R144). -/
  | stb (addr : Word) (v : Byte) : Effect s (.stb addr) (s.memWrite addr v)
  /-- A jump, taken (R110). -/
  | jump (i : Instr) (target : Word) (hi : 0x0D ≤ (opcodeOf i).toNat ∧ (opcodeOf i).toNat ≤ 0x17) :
      Effect s i (s.jump target)
  /-- A jump, not taken (R110). -/
  | noJump (i : Instr) (hi : 0x0D ≤ (opcodeOf i).toNat ∧ (opcodeOf i).toNat ≤ 0x17) : Effect s i s
  /-- PUSH (R130). -/
  | push (r v : Byte) : Effect s (.push r) (s.pushByte v)
  /-- POP (R131). -/
  | pop (r : Byte) (q : Reg) (v : Byte) : Effect s (.pop r) (s.popByte.2.writeReg q v)
  /-- CALL (R132). -/
  | call (addr : Word) (hi lo : Byte) : Effect s (.call addr) (((s.pushByte hi).pushByte lo).jump addr)
  /-- RET (R133). -/
  | ret (target : Word) : Effect s .ret (s.popByte.2.popByte.2.jump target)
  /-- INC and DEC write A, Zero, Sign and Overflow (R83, R84). -/
  | incDec (i : Instr) (r : Byte) (o : Bool) (hi : opcodeOf i ∈ [0x04#8, 0x05#8]) :
      Effect s i (((s.writeReg .A r).setZS r).setO o)
  /-- CMP writes the four flags (R86). -/
  | cmp (rd rs r : Byte) (c o : Bool) : Effect s (.cmp rd rs) (((s.setZS r).setC c).setO o)
  /-- ADD, SUB, MUL, AND, OR, XOR and NOT write a register and the four flags (R81, R82, R85, R100 to R103). -/
  | alu (i : Instr) (d : Reg) (r : Byte) (c o : Bool)
      (hi : opcodeOf i ∈ [0x06#8, 0x07#8, 0x08#8, 0x18#8, 0x19#8, 0x1A#8, 0x1B#8]) :
      Effect s i ((((s.writeReg d r).setZS r).setC c).setO o)

/-- A jump instruction jumps or leaves the state as it is. -/
theorem effect_of_jumpIf {i : Instr} {taken : Bool} {target : Word} {s t : State}
    (hi : 0x0D ≤ (opcodeOf i).toNat ∧ (opcodeOf i).toNat ≤ 0x17) (h : jumpIf taken target s = .next t) :
    Effect s i t := by
  cases taken <;> cases h
  · exact .noJump i hi
  · exact .jump i target hi

/-- Every instruction that answers a next state had one of the effects. -/
theorem exec_effect {i : Instr} {s t : State} (h : exec i s = .next t) : Effect s i t := by
  cases i with
  | nop => cases h; exact .nop
  | hlt => cases h; exact .hlt
  | lda addr => cases h; exact .load _ _ _ (by simp [opcodeOf, encode])
  | ldb addr => cases h; exact .load _ _ _ (by simp [opcodeOf, encode])
  | ldi imm8 => cases h; exact .load _ _ _ (by simp [opcodeOf, encode])
  | mov rd rs =>
    obtain ⟨d, e, rfl, rfl, he⟩ := checkRegs_next h
    cases he; exact .load _ _ _ (by simp [opcodeOf, encode])
  | sta addr => cases h; exact .sta addr _
  | stb addr => cases h; exact .stb addr _
  | jmp addr => cases h; exact .jump _ addr (by simp [opcodeOf, encode])
  | jz addr | jnz addr | jc addr | jnc addr | je addr | jne addr | jl addr | jg addr | jb addr | ja addr =>
    exact effect_of_jumpIf (by simp [opcodeOf, encode]) h
  | push r =>
    obtain ⟨q, rfl, he⟩ := checkReg_next h
    cases he; exact .push _ _
  | pop r =>
    obtain ⟨q, rfl, he⟩ := checkReg_next h
    cases he; exact .pop _ q _
  | call addr => cases h; exact .call addr _ _
  | ret => cases h; exact .ret _
  | inc | dec => cases h; exact .incDec _ _ _ (by decide)
  | cmp rd rs =>
    obtain ⟨d, e, rfl, rfl, he⟩ := checkRegs_next h
    cases he; exact .cmp _ _ _ _ _
  | add rd rs | sub rd rs | mul rd rs | and rd rs | or rd rs | xor rd rs =>
    obtain ⟨d, e, rfl, rfl, he⟩ := checkRegs_next h
    cases he; exact .alu _ d _ _ _ (by simp [opcodeOf, encode])
  | not r =>
    obtain ⟨d, rfl, he⟩ := checkReg_next h
    cases he; exact .alu _ d _ _ _ (by simp [opcodeOf, encode])

/-! ## Frames -/

/-- No instruction that completes enters or leaves the fatal state (R34). -/
theorem exec_keeps_fatal {i : Instr} {s t : State} (h : exec i s = .next t) : t.fatal = s.fatal := by
  cases exec_effect h <;> simp

theorem fetch_keeps_fatal (s : State) : (fetch s).2.fatal = s.fatal := by
  obtain ⟨n, hn⟩ := fetch_frame s
  rw [hn]

/-- A step that answers a next state does not change the fatal state (R34). -/
theorem step_keeps_fatal {s t : State} (h : step s = .next t) : t.fatal = s.fatal := by
  have hfetch := fetch_keeps_fatal s
  obtain ⟨-, -, rfl⟩ | ⟨op, u, -, -, hu, rfl⟩ | ⟨i, u, -, -, hu, hexec⟩ := step_cases h
  · rfl
  · rwa [hu] at hfetch
  · rw [hu] at hfetch
    exact (exec_keeps_fatal hexec).trans hfetch

/-- Settles O41: every effect but those of the stack instructions keeps `sp`. -/
theorem onlyStackInstructionsMoveSp : Obligations.OnlyStackInstructionsMoveSp := by
  intro i s t h hsp
  cases exec_effect h with
  | push r v => exact .inl ⟨r, rfl⟩
  | pop r q v => exact .inr (.inl ⟨r, rfl⟩)
  | call addr hi lo => exact .inr (.inr (.inl ⟨addr, rfl⟩))
  | ret target => exact .inr (.inr (.inr rfl))
  | nop | hlt | load | sta | stb | jump | noJump | incDec | cmp | alu => exact absurd (by simp) hsp

/-- Settles O43: the effects that write FLAGS are INC's and DEC's, which keep Carry, CMP's and the other ALU
instructions'. -/
theorem onlyAluInstructionsWriteFlags : Obligations.OnlyAluInstructionsWriteFlags := by
  intro i s t h
  cases exec_effect h with
  | incDec _ r o hi =>
    exact ⟨fun _ => List.Sublist.mem hi (by decide), fun hc => absurd (by simp) hc⟩
  | cmp rd rs r c o => exact ⟨fun _ => by simp [opcodeOf, encode], fun _ => by simp [opcodeOf, encode]⟩
  | alu _ d r c o hi =>
    exact ⟨fun _ => List.Sublist.mem hi (by decide), fun _ => List.Sublist.mem hi (by decide)⟩
  | nop | hlt | load | sta | stb | jump | noJump | push | pop | call | ret =>
    exact ⟨fun hf => absurd (by simp) hf, fun hc => absurd (by simp) hc⟩

/-- Settles O44: an effect that writes FLAGS does so by setting the four flags, which keeps bits 7:4. -/
theorem reservedFlagBitsAreNeverWritten : Obligations.ReservedFlagBitsAreNeverWritten := by
  intro i s t h
  unfold SameReserved
  cases exec_effect h with
  | incDec | cmp | alu =>
    simp only [State.setO_reserved, State.setC_reserved, State.setZS_reserved, State.writeReg_flags]
  | nop | hlt | load | sta | stb | jump | noJump | push | pop | call | ret => simp

/-- Settles O45: every effect but a taken jump's, CALL's and RET's keeps `pc`. -/
theorem onlyTransfersWritePc : Obligations.OnlyTransfersWritePc := by
  intro i s t h hpc
  cases exec_effect h with
  | jump _ target hi => exact .inl hi
  | call addr hi lo => exact .inr (.inl ⟨addr, rfl⟩)
  | ret target => exact .inr (.inr rfl)
  | nop | hlt | load | sta | stb | noJump | push | pop | incDec | cmp | alu => exact absurd (by simp) hpc

/-- Settles O46: a halted core's step is a no-op, and no step writes the fatal state. -/
theorem stepsNeverClearHalted : Obligations.StepsNeverClearHalted := by
  intro s t h
  refine ⟨fun hhalted => ?_, step_keeps_fatal h⟩
  obtain ⟨-, -, rfl⟩ | ⟨_, _, -, hrunning, -⟩ | ⟨_, _, -, hrunning, -⟩ := step_cases h
  · exact hhalted
  · exact absurd hhalted (by simp [hrunning])
  · exact absurd hhalted (by simp [hrunning])

end Sys2Proof.Machine
end

section
/-! SUPPORT. The Overflow formulas of 40_arithmetic.md R81 to R84 and the signed reading of a byte: each says that the
exact signed result does not fit in 8 bits. -/

namespace Sys2Proof.Machine

/-- Masking a byte with 0x80 tests its sign bit. -/
theorem and_0x80_ne_zero : ∀ x : Byte, (x &&& 0x80#8 != 0x00#8) = x.msb := by decide

/-- The Overflow of ADD (R81) is the signed overflow of the sum. -/
theorem addOverflow_eq_saddOverflow (a b : Byte) : addOverflow a b (a + b) = a.saddOverflow b := by
  rw [addOverflow, and_0x80_ne_zero, BitVec.saddOverflow_eq, BitVec.msb_and, BitVec.msb_xor, BitVec.msb_xor]
  cases a.msb <;> cases b.msb <;> cases (a + b).msb <;> rfl

/-- The Overflow of SUB (R82) is the signed overflow of the difference. -/
theorem subOverflow_eq_ssubOverflow (a b : Byte) : subOverflow a b (a - b) = a.ssubOverflow b := by
  rw [subOverflow, and_0x80_ne_zero, BitVec.ssubOverflow_eq, BitVec.msb_and, BitVec.msb_xor, BitVec.msb_xor]
  cases a.msb <;> cases b.msb <;> cases (a - b).msb <;> rfl

theorem addOverflow_iff (a b : Byte) :
    addOverflow a b (a + b) = true ↔ a.toInt + b.toInt < -128 ∨ 127 < a.toInt + b.toInt := by
  rw [addOverflow_eq_saddOverflow, BitVec.saddOverflow, Bool.or_eq_true, decide_eq_true_iff, decide_eq_true_iff]
  omega

theorem subOverflow_iff (a b : Byte) :
    subOverflow a b (a - b) = true ↔ a.toInt - b.toInt < -128 ∨ 127 < a.toInt - b.toInt := by
  rw [subOverflow_eq_ssubOverflow, BitVec.ssubOverflow, Bool.or_eq_true, decide_eq_true_iff, decide_eq_true_iff]
  omega

theorem incOverflow_iff : ∀ a : Byte, incOverflow a = true ↔ 127 < a.toInt + 1 := by decide

theorem decOverflow_iff : ∀ a : Byte, decOverflow a = true ↔ a.toInt - 1 < -128 := by decide

/-- Settles O22: each Overflow bit is its formula, and the formula is the signed range. -/
theorem overflowIsSignedOutOfRange : Obligations.OverflowIsSignedOutOfRange := by
  refine ⟨fun d e s t h => ?_, fun d e s t h => ?_, fun s t h => ?_, fun s t h => ?_⟩
  · simp only [exec, execAdd, checkRegs_index, sum_narrowed] at h
    cases h
    rw [State.setAddFlags_flagO, addOverflow_iff]
  · simp only [exec, execSub, checkRegs_index, difference_eq_sub] at h
    cases h
    rw [State.setSubFlags_flagO, subOverflow_iff]
  · cases h
    rw [State.setO_flagO]
    exact incOverflow_iff s.a
  · cases h
    rw [State.setO_flagO]
    exact decOverflow_iff s.a

end Sys2Proof.Machine
end

section
/-! SUPPORT. The state right after reset (10_state.md R37), and the steps of a core that has stopped (R33, R34). -/

namespace Sys2Proof.Machine

/-- A halted or fatal core makes no transaction (R33, R34). -/
theorem stepTransactions_of_stopped {s : State} (h : s.halted = true ∨ s.fatal.isSome = true) :
    stepTransactions s = [] :=
  if_pos ((Bool.or_eq_true _ _).mpr h)

/-- Settles O1: every field by its reset value; memory holds no listed cell. -/
theorem resetStateValues : Obligations.ResetStateValues := by
  refine ⟨fun q => ?_, rfl, rfl, rfl, rfl, rfl, rfl, fun _ => rfl⟩
  cases q <;> rfl

/-- Settles O10, by the halted case of the step and of its transactions. -/
theorem stepOfHaltedCoreIsNoOp : Obligations.StepOfHaltedCoreIsNoOp :=
  fun s hhalted hfatal => ⟨step_halted s hfatal hhalted, stepTransactions_of_stopped (.inl hhalted)⟩

/-- Settles O11, by the fatal case of the step and of its transactions. -/
theorem stepOfFatalCoreFaults : Obligations.StepOfFatalCoreFaults :=
  fun s info hfatal => ⟨step_fatal s info hfatal, stepTransactions_of_stopped (.inr (by rw [hfatal]; rfl))⟩

end Sys2Proof.Machine
end

section
/-! SUPPORT. What a step does to memory: who writes it (20_memory.md R43), that a read returns the byte last written
(R42, R54), and that its transactions on the port account for it (R50 to R52). -/

namespace Sys2Proof.Machine

/-! ## Reading and writing -/

/-- Settles O8: the read law of a write, and a write's frame. -/
theorem readReturnsTheLastWrite : Obligations.ReadReturnsTheLastWrite :=
  fun s addr k v => ⟨State.memRead_memWrite s addr k v, rfl⟩

/-- Settles O42: only the effects of STA, STB, PUSH and CALL write memory. -/
theorem onlyStoresAndPushesWriteMemory : Obligations.OnlyStoresAndPushesWriteMemory := by
  intro i s t h hmem
  cases exec_effect h with
  | sta addr v => exact .inl ⟨addr, rfl⟩
  | stb addr v => exact .inr (.inl ⟨addr, rfl⟩)
  | push r v => exact .inr (.inr (.inl ⟨r, rfl⟩))
  | call addr hi lo => exact .inr (.inr (.inr ⟨addr, rfl⟩))
  | nop | hlt | load | jump | noJump | pop | ret | incDec | cmp | alu => exact absurd (by simp) hmem

theorem fetch_keeps_mem (s : State) : (fetch s).2.mem = s.mem := by
  obtain ⟨n, hn⟩ := fetch_frame s
  rw [hn]

theorem fetch_keeps_memRead (s : State) (addr : Word) : (fetch s).2.memRead addr = s.memRead addr :=
  congrArg (Memory.read · addr.toNat) (fetch_keeps_mem s)

/-! ## The transactions of a step -/

/-- Transactions one after another are the first ones, then the others. -/
theorem applyTransactions_append (m : Memory) (before after : List Transaction) :
    applyTransactions m (before ++ after) = applyTransactions (applyTransactions m before) after :=
  List.foldl_append

/-- Reads leave memory as it is. -/
theorem applyTransactions_readsFrom (m : Memory) (s : State) (n : Nat) (addr : Word) :
    applyTransactions m (readsFrom s addr n) = m := by
  induction n generalizing addr with
  | zero => rfl
  | succ n ih => exact ih (addr + 1#16)

/-- Consecutive reads return what memory holds. -/
theorem data_of_mem_readsFrom {s : State} {addr : Word} {data : Byte} {n : Nat} {start : Word}
    (h : .read addr data ∈ readsFrom s start n) : data = s.memRead addr := by
  induction n generalizing start with
  | zero => cases h
  | succ n ih =>
    cases h with
    | head => rfl
    | tail _ h => exact ih h

/-- The transactions of a core that fetches: the fetches, then the data accesses of the instruction fetched. -/
theorem stepTransactions_of_instr {s u : State} {i : Instr} (hf : s.fatal = none) (hh : s.halted = false)
    (hfetch : fetch s = (.instr i, u)) : stepTransactions s = fetchTransactions s ++ dataTransactions i u := by
  simp [stepTransactions, hf, hh, hfetch]

/-- The transactions of the implicit halt: the fetch of the opcode byte (R152). -/
theorem stepTransactions_of_undefinedOpcode {s u : State} {op : Byte} (hf : s.fatal = none) (hh : s.halted = false)
    (hfetch : fetch s = (.undefinedOpcode op, u)) : stepTransactions s = fetchTransactions s := by
  simp [stepTransactions, hf, hh, hfetch]

/-- The memory an instruction leaves is what its data accesses make of the memory after its fetch (R43). -/
theorem exec_mem {i : Instr} {s t : State} (h : exec i s = .next t) :
    t.mem = applyTransactions s.mem (dataTransactions i s) := by
  cases i with
  | sta addr | stb addr => cases h; rfl
  | push r | pop r =>
    obtain ⟨q, rfl, he⟩ := checkReg_next h
    cases he
    simp [dataTransactions, applyTransactions, applyTransaction]
  | call addr =>
    cases h
    have hsp : s.sp - 1#16 - 1#16 = s.sp - 2#16 := by bv_omega
    simp [dataTransactions, applyTransactions, applyTransaction, hsp]
  | nop | lda | ldb | ldi | inc | dec | add | sub | mul | mov | cmp | jmp | jz | jnz | jc | jnc | je | jne | jl | jg
  | jb | ja | and | or | xor | not | ret | hlt =>
    by_contra hmem
    simpa using onlyStoresAndPushesWriteMemory _ s t h hmem

/-- Every data read of an instruction returns what memory holds after its fetch. -/
theorem data_of_mem_dataTransactions {i : Instr} {s : State} {addr : Word} {data : Byte}
    (h : .read addr data ∈ dataTransactions i s) : data = s.memRead addr := by
  cases i with
  | lda a | ldb a =>
    obtain ⟨rfl, hdata⟩ : addr = a ∧ data = s.memRead a := by simpa [dataTransactions] using h
    exact hdata
  | ret =>
    obtain ⟨rfl, hdata⟩ | ⟨rfl, hdata⟩ : (addr = s.sp ∧ data = s.memRead s.sp) ∨
        (addr = s.sp + 1#16 ∧ data = s.memRead (s.sp + 1#16)) := by simpa [dataTransactions] using h
    · exact hdata
    · exact hdata
  | pop r =>
    cases hr : regOfIndex r with
    | none => simp [dataTransactions, hr] at h
    | some q =>
      obtain ⟨rfl, hdata⟩ : addr = s.sp ∧ data = s.memRead s.sp := by simpa [dataTransactions, hr] using h
      exact hdata
  | push r => cases hr : regOfIndex r <;> simp [dataTransactions, hr] at h
  | sta | stb | call => simp [dataTransactions] at h
  | nop | ldi | inc | dec | add | sub | mul | mov | cmp | jmp | jz | jnz | jc | jnc | je | jne | jl | jg | jb | ja
  | and | or | xor | not | hlt => cases h

/-- Settles O50: the fetches only read, and then the instruction's memory is its data accesses'. -/
theorem stepMemoryIsItsTransactions : Obligations.StepMemoryIsItsTransactions := by
  intro s t h
  have hmem := fetch_keeps_mem s
  obtain ⟨-, hh, rfl⟩ | ⟨op, u, hf, hh, hu, rfl⟩ | ⟨i, u, hf, hh, hu, hexec⟩ := step_cases h
  · rw [stepTransactions_of_stopped (.inl hh)]
    rfl
  · rw [hu] at hmem
    rw [stepTransactions_of_undefinedOpcode hf hh hu, fetchTransactions, applyTransactions_readsFrom]
    exact hmem
  · rw [hu] at hmem
    rw [stepTransactions_of_instr hf hh hu, applyTransactions_append, fetchTransactions, applyTransactions_readsFrom,
      ← hmem]
    exact exec_mem hexec

/-- Settles O51: the fetches read the state before the step, and the data reads one that holds the same memory. -/
theorem stepReadsMemoryBeforeItWrites : Obligations.StepReadsMemoryBeforeItWrites := by
  intro s addr data h
  by_cases hstop : s.halted = true ∨ s.fatal.isSome = true
  · rw [stepTransactions_of_stopped hstop] at h
    cases h
  · obtain ⟨hh, hf⟩ : s.halted = false ∧ s.fatal = none := by simpa using hstop
    have hread := fetch_keeps_memRead s addr
    rcases hfetch : fetch s with ⟨i | op, u⟩
    · rw [stepTransactions_of_instr hf hh hfetch, List.mem_append] at h
      rw [hfetch] at hread
      exact h.elim data_of_mem_readsFrom fun hdata => (data_of_mem_dataTransactions hdata).trans hread
    · rw [stepTransactions_of_undefinedOpcode hf hh hfetch] at h
      exact data_of_mem_readsFrom h

/-! ## A store seen by the next fetch -/

/-- A core that fetches runs the instruction that the bytes at `pc` decode to (R60). -/
theorem step_of_decode {s : State} {i : Instr} {rest : List Byte} (hf : s.fatal = none) (hh : s.halted = false)
    (h : decode [s.memRead s.pc, s.memRead (s.pc + 1#16), s.memRead (s.pc + 2#16)] = .instr i rest) :
    step s = exec i { s with pc := s.pc + BitVec.ofNat 16 (lengthOf i) } := by
  rw [step_running s hf hh, fetch_of_decode h]

/-- Settles O52: STA leaves `pc` at the address it wrote, and the fetch reads the byte last written there. -/
theorem storedByteIsFetchedNext : Obligations.StoredByteIsFetchedNext :=
  fun _ _ hh hf hdecode => ⟨_, step_of_decode hf hh hdecode, rfl, State.memRead_memWrite_same _ _ _⟩

end Sys2Proof.Machine
end

section
/-! SUPPORT. The invariant of the core (canonical memory, clear reserved flag bits, a truthful halt record) and that the
fetch, every instruction and the implicit halt keep it (20_memory.md R40, 10_state.md R31, 45_system.md R152). -/

namespace Sys2Proof.Machine

/-! ## The parts of the invariant -/

theorem State.inv_iff (s : State) :
    s.inv = true ↔ Memory.wf s.mem = true ∧ s.flags.extractLsb' 4 4 = 0#4 ∧ s.haltRecordOk = true := by
  simp [State.inv, State.reservedClear, and_assoc]

theorem State.haltRecordOk_iff (s : State) :
    s.haltRecordOk = true ↔ ∀ op, s.implicitHaltOp = some op → s.halted = true ∧ opcodeForm op = none := by
  unfold State.haltRecordOk
  cases s.implicitHaltOp <;> simp

/-! ## What an instruction keeps -/

/-- The stores and pushes write memory inside the address space, and the others leave it (R40). -/
theorem exec_keeps_wf {i : Instr} {s t : State} (h : exec i s = .next t) (hs : Memory.wf s.mem = true) :
    Memory.wf t.mem = true := by
  cases exec_effect h with
  | sta | stb => exact State.memWrite_wf _ _ _ hs
  | push => exact State.pushByte_wf _ _ hs
  | call => exact State.pushByte_wf _ _ (State.pushByte_wf _ _ hs)
  | nop | hlt | load | jump | noJump | pop | ret | incDec | cmp | alu => simpa using hs

/-- No instruction writes the halt record (R152, log entry 3). -/
theorem exec_keeps_implicitHaltOp {i : Instr} {s t : State} (h : exec i s = .next t) :
    t.implicitHaltOp = s.implicitHaltOp := by
  cases exec_effect h <;> simp

/-- No instruction clears `halted` (R33). -/
theorem exec_keeps_halted {i : Instr} {s t : State} (h : exec i s = .next t) (hs : s.halted = true) :
    t.halted = true := by
  cases exec_effect h <;> simp [hs]

/-! ## The invariant is kept -/

theorem fetch_keeps_inv {s : State} (hs : s.inv = true) : (fetch s).2.inv = true := by
  obtain ⟨n, hn⟩ := fetch_frame s
  rw [hn]
  exact hs

theorem exec_keeps_inv {i : Instr} {s t : State} (h : exec i s = .next t) (hs : s.inv = true) : t.inv = true := by
  obtain ⟨hwf, hclear, hrecord⟩ := s.inv_iff.mp hs
  refine t.inv_iff.mpr ⟨exec_keeps_wf h hwf, (reservedFlagBitsAreNeverWritten i s t h).trans hclear,
    t.haltRecordOk_iff.mpr fun op hop => ?_⟩
  obtain ⟨hhalted, hform⟩ := s.haltRecordOk_iff.mp hrecord op (exec_keeps_implicitHaltOp h ▸ hop)
  exact ⟨exec_keeps_halted h hhalted, hform⟩

/-- The implicit halt of a byte outside the opcode map records what it must. -/
theorem implicitHalt_keeps_inv {s : State} {op : Byte} (hform : opcodeForm op = none) (hs : s.inv = true) :
    (s.implicitHalt op).inv = true := by
  obtain ⟨hwf, hclear, -⟩ := s.inv_iff.mp hs
  refine (State.inv_iff _).mpr ⟨hwf, hclear, ?_⟩
  simp [State.haltRecordOk, hform]

/-- What the fetch calls an undefined opcode is outside the opcode map (R67). -/
theorem opcodeForm_of_fetch_undefinedOpcode {s u : State} {op : Byte} (h : fetch s = (.undefinedOpcode op, u)) :
    opcodeForm op = none := by
  unfold fetch at h
  dsimp only at h
  split at h
  case h_1 hform =>
    cases h
    exact hform
  all_goals cases h

/-- Settles O48: a halted core stays as it is, and the fetch with what follows it keeps the invariant. -/
theorem stepKeepsTheInvariant : Obligations.StepKeepsTheInvariant := by
  intro s t hs h
  have hu := fetch_keeps_inv hs
  obtain ⟨-, -, rfl⟩ | ⟨op, u, -, -, hfetch, rfl⟩ | ⟨i, u, -, -, hfetch, hexec⟩ := step_cases h
  · exact hs
  · rw [hfetch] at hu
    exact implicitHalt_keeps_inv (opcodeForm_of_fetch_undefinedOpcode hfetch) hu
  · rw [hfetch] at hu
    exact exec_keeps_inv hexec hu

end Sys2Proof.Machine
end

section
/-! SUPPORT. The five formats (30_encoding.md R61) tie the opcode map, the decoder and the encoder together: what a
format makes encodes to its opcode byte and the format's operand bytes, and decodes back. -/

namespace Sys2Proof.Machine

/-! ## What a format makes of operands -/

/-- `Makes f i`: the format `f` makes instruction `i` of some operand (R61 to R64). -/
inductive Makes : Form → Instr → Prop where
  | n (i : Instr) : Makes (.n i) i
  | i (mk : Byte → Instr) (imm8 : Byte) : Makes (.i mk) (mk imm8)
  | r (mk : Byte → Instr) (index : Byte) : Makes (.r mk) (mk index)
  | rr (mk : Byte → Byte → Instr) (rd rs : Byte) : Makes (.rr mk) (mk rd rs)
  | a (mk : Word → Instr) (addr : Word) : Makes (.a mk) (mk addr)

/-- The format of an instruction's opcode byte makes the instruction (R65). -/
theorem exists_form_makes (i : Instr) : ∃ op f, opcodeForm op = some f ∧ Makes f i := by
  refine ⟨opcodeOf i, ?_⟩
  cases i with
  | nop | inc | dec | ret | hlt => exact ⟨_, rfl, .n _⟩
  | ldi imm8 => exact ⟨_, rfl, .i _ imm8⟩
  | not r | push r | pop r => exact ⟨_, rfl, .r _ r⟩
  | add rd rs | sub rd rs | mul rd rs | mov rd rs | cmp rd rs | and rd rs | or rd rs | xor rd rs =>
    exact ⟨_, rfl, .rr _ rd rs⟩
  | lda addr | ldb addr | sta addr | stb addr | jmp addr | jz addr | jnz addr | jc addr | jnc addr | je addr | jne addr
  | jl addr | jg addr | jb addr | ja addr | call addr => exact ⟨_, rfl, .a _ addr⟩

/-- The encoding of an address instruction is its opcode byte and the address, high byte first (R64, R65). -/
theorem encode_of_opcodeForm_a {op : Byte} {mk : Word → Instr} (h : opcodeForm op = some (.a mk)) (addr : Word) :
    encode (mk addr) = [op, hiByte addr, loByte addr] := by
  simpa using opcodeForm_encode h (hiByte addr) (loByte addr)

/-- What a format makes is as long as the format says (R61, R66). -/
theorem lengthOf_of_makes {op : Byte} {f : Form} {i : Instr} (hform : opcodeForm op = some f) (hmakes : Makes f i) :
    lengthOf i = formLength f := by
  cases hmakes with
  | n i => exact congrArg List.length (opcodeForm_encode hform)
  | i mk imm8 => exact congrArg List.length (opcodeForm_encode hform imm8)
  | r mk index => exact congrArg List.length (opcodeForm_encode hform index)
  | rr mk rd rs => exact congrArg List.length (opcodeForm_encode hform rd rs)
  | a mk addr => exact congrArg List.length (encode_of_opcodeForm_a hform addr)

/-- No instruction is longer than the longest (R66). -/
theorem lengthOf_le_maxInstrLength (i : Instr) : lengthOf i ≤ Config.maxInstrLength := by
  obtain ⟨op, f, hform, hmakes⟩ := exists_form_makes i
  rw [lengthOf_of_makes hform hmakes]
  cases f <;> simp [formLength, Config.maxInstrLength]

/-! ## Decoding what was encoded, and encoding what was decoded -/

/-- What the format of an opcode byte makes decodes from its encoding, whatever follows. -/
theorem decode_encode_of_makes {op : Byte} {f : Form} {i : Instr} (hform : opcodeForm op = some f) (hmakes : Makes f i)
    (rest : List Byte) : decode (encode i ++ rest) = .instr i rest := by
  cases hmakes with
  | n i => simp [opcodeForm_encode hform, decode, hform]
  | i mk imm8 => simp [opcodeForm_encode hform imm8, decode, hform]
  | r mk index => simp [opcodeForm_encode hform index, decode, hform]
  | rr mk rd rs => simp [opcodeForm_encode hform rd rs, decode, hform]
  | a mk addr => simp [encode_of_opcodeForm_a hform addr, decode, hform]

/-- Settles O3: every instruction is made by the format of its opcode byte, in one of five ways. -/
theorem decodeOfEncodeIsTheInstruction : Obligations.DecodeOfEncodeIsTheInstruction := by
  intro i rest
  obtain ⟨op, f, hform, hmakes⟩ := exists_form_makes i
  exact decode_encode_of_makes hform hmakes rest

/-- What decodes was made by the format of the opcode byte, and the bytes are its encoding and the rest. -/
theorem decode_eq_instr {op : Byte} {bytes rest : List Byte} {i : Instr} (h : decode (op :: bytes) = .instr i rest) :
    ∃ f, opcodeForm op = some f ∧ Makes f i ∧ op :: bytes = encode i ++ rest := by
  cases hform : opcodeForm op with
  | none => simp [decode, hform] at h
  | some f =>
    refine ⟨f, rfl, ?_⟩
    have henc := opcodeForm_encode hform
    cases f <;> simp only [decode, hform] at h
    case n i =>
      cases h
      exact ⟨.n i, by simp [henc]⟩
    case i mk =>
      split at h <;> cases h
      exact ⟨.i mk _, by simp [henc]⟩
    case r mk =>
      split at h <;> cases h
      exact ⟨.r mk _, by simp [henc]⟩
    case rr mk =>
      split at h <;> cases h
      exact ⟨.rr mk _ _, by simp [henc]⟩
    case a mk =>
      split at h <;> cases h
      exact ⟨.a mk _, by simp [henc]⟩

/-- Settles O4: no bytes decode to nothing, and otherwise the opcode byte's format shows what was read. -/
theorem decodedBytesAreTheEncoding : Obligations.DecodedBytesAreTheEncoding := by
  intro bytes rest i h
  cases bytes with
  | nil => cases h
  | cons op bytes =>
    obtain ⟨-, -, -, hbytes⟩ := decode_eq_instr h
    exact hbytes

/-! ## Lengths and the opcode map -/

/-- `Length(op)` as R66 tabulates it. -/
theorem opcodeLength_table : ∀ op : Byte, opcodeLength op =
    if op ∈ [0x00#8, 0x04#8, 0x05#8, 0x1F#8, 0xFF#8] then some 1
    else if op ∈ [0x03#8, 0x1B#8, 0x1C#8, 0x1D#8] then some 2
    else if op.toNat ≤ 0x1E then some 3
    else none := by decide

/-- Settles O6: the table for every byte, and for a decoded instruction the length its format says. -/
theorem lengthIsFixedByTheOpcode : Obligations.LengthIsFixedByTheOpcode := by
  refine ⟨opcodeLength_table, fun op bytes rest i h => ?_⟩
  obtain ⟨f, hform, hmakes, hbytes⟩ := decode_eq_instr h
  refine ⟨?_, by rw [hbytes, List.length_append, lengthOf]⟩
  rw [opcodeLength, hform, Option.map_some, lengthOf_of_makes hform hmakes]

/-- The decoder rejects an opcode byte by name exactly when it is outside the opcode map (R67). -/
theorem decode_eq_undefinedOpcode (op : Byte) (rest : List Byte) :
    decode (op :: rest) = .rejected (.undefinedOpcode op) ↔ opcodeForm op = none := by
  constructor
  · intro h
    cases hform : opcodeForm op with
    | none => rfl
    | some f =>
      cases f <;> simp only [decode, hform] at h
      case n => cases h
      all_goals (split at h <;> cases h)
  · intro hform
    simp [decode, hform]

/-- Settles O5: the bytes outside the opcode map are 0x20..0xFE. -/
theorem undefinedOpcodesAreRejectedByName : Obligations.UndefinedOpcodesAreRejectedByName :=
  fun op rest => ((decode_eq_undefinedOpcode op rest).trans (opcodeForm_eq_none op)).symm

/-- Settles O7: the decoder, run on the six words. -/
theorem wordsFromTheOpcodeMapDecode : Obligations.WordsFromTheOpcodeMapDecode := by
  unfold Obligations.WordsFromTheOpcodeMapDecode
  decide

end Sys2Proof.Machine
end

section
/-! SUPPORT. The step runs what the bytes at `pc` decode to, those of a placed table word included (30_encoding.md R60,
log entries 5, 8). -/

namespace Sys2Proof.Machine

/-- Settles O9: the fetch reads what the decoder reads. -/
theorem stepRunsTheDecodedInstruction : Obligations.StepRunsTheDecodedInstruction :=
  fun _ _ _ hhalted hfatal hdecode => step_of_decode hfatal hhalted hdecode

/-- The decoder reads no byte past the longest instruction. -/
theorem decode_take_maxInstrLength {bytes rest : List Byte} {i : Instr} (h : decode bytes = .instr i rest) :
    decode (bytes.take Config.maxInstrLength) = .instr i (rest.take (Config.maxInstrLength - lengthOf i)) := by
  have htake : bytes.take Config.maxInstrLength = encode i ++ rest.take (Config.maxInstrLength - lengthOf i) := by
    rw [decodedBytesAreTheEncoding bytes rest i h, List.take_append,
      List.take_of_length_le (lengthOf_le_maxInstrLength i), lengthOf]
  rw [htake]
  exact decodeOfEncodeIsTheInstruction i _

theorem length_take_tableBytes (nbits w : Nat) : ((tableBytes nbits w).take Config.maxInstrLength).length = 3 := by
  simp [tableBytes, Config.maxInstrLength]

theorem decode_of_decodeTableWord {nbits w : Nat} {i : Instr} (h : decodeTableWord nbits w = some i) :
    ∃ rest, decode (tableBytes nbits w) = .instr i rest := by
  unfold decodeTableWord at h
  split at h
  · cases h
    exact ⟨_, ‹_›⟩
  · cases h

/-- Three bytes written one after another read back, across the top of memory too. -/
theorem memRead_memWriteBytes_three (s : State) (addr : Word) (b0 b1 b2 : Byte) :
    [(s.memWriteBytes addr [b0, b1, b2]).memRead addr, (s.memWriteBytes addr [b0, b1, b2]).memRead (addr + 1#16),
      (s.memWriteBytes addr [b0, b1, b2]).memRead (addr + 2#16)] = [b0, b1, b2] := by
  simp [State.memWriteBytes, State.memRead_memWrite, BitVec.add_assoc]

/-- Settles O56: the three bytes placed at `pc` hold the word's instruction, and the core fetches there. -/
theorem placedWordIsWhatStepRuns : Obligations.PlacedWordIsWhatStepRuns := by
  intro s nbits w i h
  obtain ⟨rest, hdecode⟩ := decode_of_decodeTableWord h
  replace hdecode := decode_take_maxInstrLength hdecode
  obtain ⟨b0, b1, b2, hbytes⟩ := List.length_eq_three.mp (length_take_tableBytes nbits w)
  have hplaced : s.withFetchWord nbits w = s.running.memWriteBytes s.pc [b0, b1, b2] := by
    rw [State.withFetchWord, placeTableWord, hbytes]
  rw [hbytes, ← memRead_memWriteBytes_three s.running s.pc b0 b1 b2] at hdecode
  rw [hplaced]
  exact step_of_decode rfl rfl hdecode

end Sys2Proof.Machine
end

section
/-! SUPPORT. Register-index bytes (10_state.md R20, R23; 30_encoding.md R62) and the exception of a bad one. -/

namespace Sys2Proof.Machine

theorem regOfIndex_eq_some (index : Byte) (r : Reg) : regOfIndex index = some r ↔ index = indexOfReg r := by
  constructor
  · exact fun h => (indexOfReg_of_regOfIndex index r h).symm
  · rintro rfl
    exact regOfIndex_indexOfReg r

theorem registerByteOk_eq_false (index : Byte) : registerByteOk index = false ↔ 4 ≤ index.toNat := by
  rw [registerByteOk, decide_eq_false_iff_not, Nat.not_lt, Config.numRegs]

/-- Two checks of which one must fail raise the exception. -/
theorem checkRegs_bad {i : Instr} {rd rs : Byte} {s : State} {go : Reg → Reg → Result}
    (h : (registerByteOk rd && registerByteOk rs) = false) :
    ∃ info, checkRegs i rd rs s go = .fault (.fatalRegIndex info) := by
  obtain ⟨-, hfault⟩ | ⟨-, -, hfault⟩ | ⟨d, e, rfl, rfl, -⟩ := checkRegs_cases i rd rs s go
  · exact ⟨_, hfault⟩
  · exact ⟨_, hfault⟩
  · cases d <;> cases e <;> cases h

/-- An ill-formed instruction raises the exception (R23, R62). -/
theorem exec_of_not_wellFormed {i : Instr} (s : State) (h : i.wellFormed = false) :
    ∃ info, exec i s = .fault (.fatalRegIndex info) := by
  cases i with
  | add rd rs | sub rd rs | mul rd rs | mov rd rs | cmp rd rs | and rd rs | or rd rs | xor rd rs =>
    exact checkRegs_bad h
  | not r | push r | pop r => exact ⟨_, checkReg_bad _ r s _ h⟩
  | nop | lda | ldb | ldi | inc | dec | sta | stb | jmp | jz | jnz | jc | jnc | je | jne | jl | jg | jb | ja | call
  | ret | hlt => cases h

/-- Settles O37: the four indices, the bytes that name none, and the checks that then fail. -/
theorem badRegisterByteRaisesFatal : Obligations.BadRegisterByteRaisesFatal :=
  ⟨⟨rfl, rfl, rfl, rfl⟩, regOfIndex_eq_some,
    fun index => (regOfIndex_eq_none index).trans (registerByteOk_eq_false index), registerByteOk_eq_false,
    fun _ s h => exec_of_not_wellFormed s h⟩

end Sys2Proof.Machine
end

section
/-! SUPPORT. The assembly language (30_encoding.md R68, R70 to R74): each mnemonic names its own opcode byte's format, a
line makes an instruction of its format, and so emits as many bytes as its format has. -/

namespace Sys2Proof.Machine

/-! ## Mnemonics (R65, R68) -/

/-- Where no two elements share a key, the search for an element's key finds it. -/
theorem find?_key_of_nodup {α κ : Type} [BEq κ] [LawfulBEq κ] (key : α → κ) {l : List α} (hl : (l.map key).Nodup)
    {x : α} (hx : x ∈ l) : l.find? (fun y => key y == key x) = some x := by
  induction l with
  | nil => cases hx
  | cons y l ih =>
    obtain ⟨hy, hl⟩ := List.nodup_cons.mp hl
    cases hx with
    | head => simp
    | tail _ hx =>
      have hne : key y ≠ key x := fun h => hy (h ▸ List.mem_map_of_mem hx)
      rw [List.find?_cons_of_neg (by simpa using hne)]
      exact ih hl hx

theorem mnemonics_nodup : (mnemonicTable.map Prod.fst).Nodup := by decide

theorem opcodes_nodup : (mnemonicTable.map Prod.snd).Nodup := by decide

theorem mnemonic_chars_nodup : (mnemonicTable.map fun row => row.1.toList).Nodup := by
  have h := mnemonics_nodup.map (f := String.toList) fun _ _ => String.toList_inj.mp
  rwa [List.map_map] at h

/-- A row's opcode byte prints its mnemonic (R68). -/
theorem opcodeMnemonic_of_mem {row : String × Byte} (h : row ∈ mnemonicTable) : opcodeMnemonic row.2 = some row.1 := by
  rw [opcodeMnemonic, find?_key_of_nodup Prod.snd opcodes_nodup h, Option.map_some]

/-- A row's mnemonic has the format of its opcode byte (R68). -/
theorem mnemonicForm_of_mem {row : String × Byte} (h : row ∈ mnemonicTable) :
    mnemonicForm row.1.toList = opcodeForm row.2 := by
  rw [mnemonicForm, find?_key_of_nodup (fun row => row.1.toList) mnemonic_chars_nodup h, Option.bind_some]

theorem opcodeMnemonic_isSome : ∀ op : Byte, (opcodeForm op).isSome = (opcodeMnemonic op).isSome := by decide

/-- Settles O58: in a table without repetitions each search finds the row itself. -/
theorem eachOpcodeHasItsOwnMnemonic : Obligations.EachOpcodeHasItsOwnMnemonic :=
  ⟨rfl, mnemonics_nodup, opcodes_nodup, fun _ h => ⟨opcodeMnemonic_of_mem h, mnemonicForm_of_mem h⟩,
    opcodeMnemonic_isSome⟩

/-! ## Lines (R72, R74) -/

/-- A line of an address instruction emits its opcode byte and the address. -/
theorem lineInstr_a_encode {op : Byte} {mk : Word → Instr} (hform : opcodeForm op = some (.a mk))
    {labels : List (List Char × Nat)} {token : List Char} {addr : Word}
    (htarget : targetOperand labels token = .ok addr) :
    (lineInstr labels (.a mk) [token]).map encode = .ok [op, hiByte addr, loByte addr] := by
  rw [lineInstr, htarget, ← encode_of_opcodeForm_a hform]
  rfl

/-- Settles O27: the six mnemonics are rows of the table with address formats, and JE, JNE and JB have the meanings of
JZ, JNZ and JC. -/
theorem aliasesDoTheSameWithOwnOpcodes : Obligations.AliasesDoTheSameWithOwnOpcodes := by
  refine ⟨fun p hp => ?_, fun addr s => ⟨rfl, rfl, rfl, rfl, rfl, rfl, rfl, rfl, rfl⟩⟩
  have hrow : p ∈ mnemonicTable := by revert p; decide
  obtain ⟨mk, hform⟩ : ∃ mk, opcodeForm p.2 = some (.a mk) := by
    simp only [List.mem_cons, List.not_mem_nil, or_false] at hp
    rcases hp with rfl | rfl | rfl | rfl | rfl | rfl <;> exact ⟨_, rfl⟩
  exact ⟨opcodeMnemonic_of_mem hrow, .a mk, (mnemonicForm_of_mem hrow).trans hform,
    fun _ _ _ htarget => lineInstr_a_encode hform htarget⟩

/-- What a function mapped over an answer answers is a value of the function. -/
theorem exists_eq_of_map_eq_ok {ε α β : Type} {mk : α → β} {answer : Except ε α} {y : β}
    (h : answer.map mk = .ok y) : ∃ x, mk x = y := by
  cases answer with
  | error e => cases h
  | ok x => exact ⟨x, Except.ok.inj h⟩

/-- The operands of a line make an instruction of its format. -/
theorem makes_of_lineInstr {labels : List (List Char × Nat)} {f : Form} {operands : List (List Char)} {i : Instr}
    (h : lineInstr labels f operands = .ok i) : Makes f i := by
  unfold lineInstr at h
  split at h
  case h_1 =>
    cases h
    exact .n i
  case h_2 =>
    obtain ⟨imm8, rfl⟩ := exists_eq_of_map_eq_ok h
    exact .i _ imm8
  case h_3 =>
    obtain ⟨index, rfl⟩ := exists_eq_of_map_eq_ok h
    exact .r _ index
  case h_4 =>
    split at h
    · cases h
    · obtain ⟨rs, rfl⟩ := exists_eq_of_map_eq_ok h
      exact .rr _ _ rs
  case h_5 =>
    obtain ⟨addr, rfl⟩ := exists_eq_of_map_eq_ok h
    exact .a _ addr
  case h_6 => cases h

/-- The instruction of the line, where it has one, has the format of an opcode byte. -/
def SourceLine.HasOpcode (line : SourceLine) : Prop :=
  ∀ f operands, line.body = some (f, operands) → ∃ op, opcodeForm op = some f

theorem exists_opcode_of_parseBody {text : List Char} {f : Form} {operands : List (List Char)}
    (h : parseBody text = .ok (some (f, operands))) : ∃ op, opcodeForm op = some f := by
  unfold parseBody at h
  split at h
  · cases h
  · split at h
    · cases h
    · next hmnemonic =>
      split at h <;> cases h
      obtain ⟨row, -, hform⟩ := Option.bind_eq_some_iff.mp hmnemonic
      exact ⟨row.2, hform⟩

/-- The instruction of a line is what the text after its label parses to. -/
theorem exists_parseBody_of_parseLine {line : List Char} {parsed : SourceLine} (h : parseLine line = .ok parsed) :
    ∃ text, parseBody text = .ok parsed.body := by
  unfold parseLine at h
  dsimp only at h
  split at h
  · split at h
    · split at h <;> cases h
      exact ⟨_, ‹_›⟩
    · cases h
  · split at h <;> cases h
    exact ⟨_, ‹_›⟩

theorem hasOpcode_of_parseLine {line : List Char} {parsed : SourceLine} (h : parseLine line = .ok parsed) :
    parsed.HasOpcode := by
  obtain ⟨text, htext⟩ := exists_parseBody_of_parseLine h
  intro f operands hbody
  exact exists_opcode_of_parseBody (hbody ▸ htext)

theorem hasOpcode_of_parseLines {source : List (List Char)} {lines : List SourceLine}
    (h : parseLines source = .ok lines) : ∀ line ∈ lines, line.HasOpcode := by
  induction source generalizing lines with
  | nil =>
    cases h
    exact fun _ hline => nomatch hline
  | cons text source ih =>
    unfold parseLines at h
    split at h
    · cases h
    · next hparsed =>
      split at h
      · cases h
      · next hothers =>
        cases h
        exact List.forall_mem_cons.mpr ⟨hasOpcode_of_parseLine hparsed, ih hothers⟩

/-- Each line emits as many bytes as its format has. -/
theorem length_of_emitLines {labels : List (List Char × Nat)} {lines : List SourceLine} {bytes : List Byte}
    (hlines : ∀ line ∈ lines, line.HasOpcode) (h : emitLines labels lines = .ok bytes) :
    bytes.length = (lines.map lineLength).sum := by
  induction lines generalizing bytes with
  | nil =>
    cases h
    rfl
  | cons line lines ih =>
    obtain ⟨hline, hrest⟩ := List.forall_mem_cons.mp hlines
    obtain ⟨label, _ | ⟨f, operands⟩⟩ := line
    · exact (ih hrest h).trans (Nat.zero_add _).symm
    · unfold emitLines at h
      dsimp only at h
      split at h
      · cases h
      · next i hi =>
        split at h
        · cases h
        · next others hothers =>
          cases h
          obtain ⟨op, hform⟩ := hline f operands rfl
          have hlen : (encode i).length = formLength f := lengthOf_of_makes hform (makes_of_lineInstr hi)
          rw [List.length_append, hlen, ih hrest hothers]
          rfl

/-- Settles O57: a source that parses has formats of the opcode map only. -/
theorem assembledLengthIsTheSumOfLines : Obligations.AssembledLengthIsTheSumOfLines :=
  fun _ _ _ _ hparse hemit => length_of_emitLines (hasOpcode_of_parseLines hparse) hemit

end Sys2Proof.Machine
end

section
/-! SUPPORT. ADD, SUB, MUL, CMP, INC and DEC (40_arithmetic.md R80 to R88): for each its next state in bit-vector terms,
what its flag writes say, and the frame they share. -/

namespace Sys2Proof.Machine

/-! ## The frames -/

/-- Writing one register and FLAGS leaves the other registers and everything outside the ALU. -/
theorem frame_of_writeReg_flags (s : State) (d : Reg) (r f : Byte) :
    SameRegsBut d s { s.writeReg d r with flags := f } ∧ SameOutsideAlu s { s.writeReg d r with flags := f } := by
  refine ⟨fun q hq => ?_, s.writeReg_pc d r, s.writeReg_sp d r,
    ⟨s.writeReg_halted d r, s.writeReg_implicitHaltOp d r, s.writeReg_fatal d r⟩, s.writeReg_memRead d r⟩
  calc State.readReg { s.writeReg d r with flags := f } q
      _ = (s.writeReg d r).readReg q := by cases q <;> rfl
      _ = s.readReg q := s.writeReg_readReg_ne d q r hq

/-- Writing FLAGS alone leaves every register and everything outside the ALU. -/
theorem frame_of_flags (s : State) (f : Byte) :
    SameRegs s { s with flags := f } ∧ SameOutsideAlu s { s with flags := f } :=
  ⟨fun q => by cases q <;> rfl, rfl, rfl, ⟨rfl, rfl, rfl⟩, fun _ => rfl⟩

/-! ## The operand bytes (R23, R62) -/

/-- Of two operand bytes, one beyond 3 names no register. -/
theorem registerBytesOk_eq_false {rd rs : Byte} (h : 3 < rd.toNat ∨ 3 < rs.toNat) :
    (registerByteOk rd && registerByteOk rs) = false := by
  rw [Bool.and_eq_false_iff, registerByteOk_eq_false, registerByteOk_eq_false]
  exact h

/-! ## The next states -/

theorem exec_add (d e : Reg) (s : State) : exec (.add (indexOfReg d) (indexOfReg e)) s =
    .next ((s.writeReg d (s.readReg d + s.readReg e)).setAddFlags (s.readReg d) (s.readReg e)
      (s.readReg d + s.readReg e)) := by
  rw [← sum_narrowed]
  exact checkRegs_index _ d e s _

theorem exec_sub (d e : Reg) (s : State) : exec (.sub (indexOfReg d) (indexOfReg e)) s =
    .next ((s.writeReg d (s.readReg d - s.readReg e)).setSubFlags (s.readReg d) (s.readReg e)
      (s.readReg d - s.readReg e)) := by
  rw [← difference_eq_sub]
  exact checkRegs_index _ d e s _

theorem exec_mul (d e : Reg) (s : State) : exec (.mul (indexOfReg d) (indexOfReg e)) s =
    .next ((((s.writeReg d (s.readReg d * s.readReg e)).setZS (s.readReg d * s.readReg e)).setC
      (mulCarry (s.readReg d) (s.readReg e))).setO false) := by
  rw [← product_narrowed]
  exact checkRegs_index _ d e s _

theorem exec_cmp (d e : Reg) (s : State) : exec (.cmp (indexOfReg d) (indexOfReg e)) s =
    .next (s.setSubFlags (s.readReg d) (s.readReg e) (s.readReg d - s.readReg e)) := by
  rw [← difference_eq_sub]
  exact checkRegs_index _ d e s _

theorem exec_inc (s : State) :
    exec .inc s = .next (((s.writeReg .A (s.a + 1#8)).setZS (s.a + 1#8)).setO (incOverflow s.a)) := by
  rw [← sum_narrowed]
  rfl

theorem exec_dec (s : State) :
    exec .dec s = .next (((s.writeReg .A (s.a - 1#8)).setZS (s.a - 1#8)).setO (decOverflow s.a)) := by
  rw [← difference_eq_sub]
  rfl

/-! ## What the flag writes say -/

/-- The four flags of ADD (R81). -/
theorem setAddFlags_spec (s : State) (a b r : Byte) :
    ((s.setAddFlags a b r).flagZ = true ↔ r = 0x00#8) ∧
    ((s.setAddFlags a b r).flagC = true ↔ a.toNat + b.toNat > 255) ∧
    (s.setAddFlags a b r).flagS = r.getLsbD 7 ∧
    ((s.setAddFlags a b r).flagO = true ↔ (a ^^^ r) &&& (b ^^^ r) &&& 0x80#8 ≠ 0x00#8) := by
  refine ⟨?_, ?_, s.setAddFlags_flagS a b r, ?_⟩
  · rw [State.setAddFlags_flagZ, beq_iff_eq]
  · rw [State.setAddFlags_flagC, addCarry, decide_eq_true_iff]
  · rw [State.setAddFlags_flagO, addOverflow, bne_iff_ne]

/-- The four flags of SUB and CMP (R82, R86). -/
theorem setSubFlags_spec (s : State) (a b r : Byte) :
    ((s.setSubFlags a b r).flagZ = true ↔ r = 0x00#8) ∧
    ((s.setSubFlags a b r).flagC = true ↔ a.toNat < b.toNat) ∧
    (s.setSubFlags a b r).flagS = r.getLsbD 7 ∧
    ((s.setSubFlags a b r).flagO = true ↔ (a ^^^ b) &&& (a ^^^ r) &&& 0x80#8 ≠ 0x00#8) := by
  refine ⟨?_, ?_, s.setSubFlags_flagS a b r, ?_⟩
  · rw [State.setSubFlags_flagZ, beq_iff_eq]
  · rw [State.setSubFlags_flagC, subCarry, decide_eq_true_iff]
  · rw [State.setSubFlags_flagO, subOverflow, bne_iff_ne]

/-- FLAGS after the writes of SUB do not depend on the registers. -/
theorem setSubFlags_flags_of_flags_eq {s t : State} (h : t.flags = s.flags) (a b r : Byte) :
    (t.setSubFlags a b r).flags = (s.setSubFlags a b r).flags := by
  simp only [State.setSubFlags, State.setZS, State.setO_flags, State.setC_flags, State.setS_flags, State.setZ_flags, h]

/-- The high byte of a product is not 0 exactly when the product exceeds 255 (R85). -/
theorem mulCarry_iff (a b : Byte) : mulCarry a b = true ↔ a.toNat * b.toNat > 255 := by
  rw [mulCarry, decide_eq_true_iff]
  omega

/-- The result, the four flags and the frame of INC and DEC, which write no Carry (R83, R84). -/
theorem writeA_setZS_setO_spec {s t : State} {r : Byte} {o : Bool} (ht : t = ((s.writeReg .A r).setZS r).setO o) :
    t.a = r ∧ (t.flagZ = true ↔ r = 0x00#8) ∧ t.flagC = s.flagC ∧ t.flagS = r.getLsbD 7 ∧ t.flagO = o ∧
      SameRegsBut .A s t ∧ SameOutsideAlu s t := by
  subst ht
  refine ⟨rfl, ?_, ?_, ?_, State.setO_flagO _ o, frame_of_writeReg_flags s .A r _⟩
  · rw [State.setO_flagZ, State.setZS_flagZ, beq_iff_eq]
  · rw [State.setO_flagC, State.setZS_flagC, State.writeReg_flagC]
  · rw [State.setO_flagS, State.setZS_flagS]

/-- Sign and Overflow of a difference differ exactly when the first operand is the lesser in the signed reading (R88):
without overflow the sign is that of the exact difference, and with it the opposite. -/
theorem sign_ne_subOverflow_iff (a b : Byte) :
    (a - b).getLsbD 7 ≠ subOverflow a b (a - b) ↔ a.toInt < b.toInt := by
  have hsign : (a - b).getLsbD 7 = true ↔ (a.toInt - b.toInt).bmod 256 < 0 := by
    rw [← BitVec.toInt_sub, ← decide_eq_true_iff (p := _ < _), ← BitVec.msb_eq_toInt, BitVec.msb_eq_getLsbD_last]
  have hover := subOverflow_iff a b
  have ha : -128 ≤ a.toInt ∧ a.toInt < 128 := ⟨a.le_toInt, a.toInt_lt⟩
  have hb : -128 ≤ b.toInt ∧ b.toInt < 128 := ⟨b.le_toInt, b.toInt_lt⟩
  rw [ne_eq, Bool.eq_iff_iff, hsign, hover, Int.bmod_def]
  omega

/-! ## The instructions -/

/-- Settles O16: the sum, with the flags and the frame of ADD. -/
theorem addWritesSumAndFlags : Obligations.AddWritesSumAndFlags := by
  refine ⟨fun _ _ => rfl, fun d e s => ?_, fun _ _ s h => exec_of_not_wellFormed s (registerBytesOk_eq_false h)⟩
  obtain ⟨hz, hc, hs, ho⟩ := setAddFlags_spec (s.writeReg d (s.readReg d + s.readReg e)) (s.readReg d) (s.readReg e)
    (s.readReg d + s.readReg e)
  exact ⟨_, exec_add d e s, by simp, hz, hc, hs, ho, frame_of_writeReg_flags s d _ _⟩

/-- Settles O17: the difference, with the flags of SUB and the frame of ADD. -/
theorem subWritesDifferenceAndFlags : Obligations.SubWritesDifferenceAndFlags := by
  refine ⟨fun _ _ => rfl, fun d e s => ?_, fun _ _ s h => exec_of_not_wellFormed s (registerBytesOk_eq_false h)⟩
  obtain ⟨hz, hc, hs, ho⟩ := setSubFlags_spec (s.writeReg d (s.readReg d - s.readReg e)) (s.readReg d) (s.readReg e)
    (s.readReg d - s.readReg e)
  exact ⟨_, exec_sub d e s, by simp, hz, hc, hs, ho, frame_of_writeReg_flags s d _ _⟩

/-- Settles O18: the low byte of the product, with the flags of MUL and the frame of ADD. -/
theorem mulWritesLowByteAndFlags : Obligations.MulWritesLowByteAndFlags := by
  refine ⟨fun _ _ => rfl, fun d e s => ?_, fun _ _ s h => exec_of_not_wellFormed s (registerBytesOk_eq_false h)⟩
  refine ⟨_, exec_mul d e s, ?_, ?_, ?_, ?_, State.setO_flagO _ false, frame_of_writeReg_flags s d _ _⟩
  · simp [BitVec.toNat_mul]
  · simp
  · simp [mulCarry_iff]
  · simp

/-- Settles O19: CMP writes FLAGS alone, as SUB does after its register write. -/
theorem cmpWritesTheFlagsOfSub : Obligations.CmpWritesTheFlagsOfSub := by
  refine ⟨fun _ _ => rfl, fun d e s => ?_, fun _ _ s h => exec_of_not_wellFormed s (registerBytesOk_eq_false h)⟩
  obtain ⟨hz, hc, hs, ho⟩ := setSubFlags_spec s (s.readReg d) (s.readReg e) (s.readReg d - s.readReg e)
  exact ⟨_, _, exec_cmp d e s, exec_sub d e s,
    (setSubFlags_flags_of_flags_eq (s.writeReg_flags d _) _ _ _).symm, hz, hc, hs, ho, frame_of_flags s _⟩

/-- Settles O20: INC and DEC write A, Zero, Sign and Overflow; the result is 0 from 0xFF and from 0x01. -/
theorem incAndDecChangeA : Obligations.IncAndDecChangeA := by
  refine ⟨rfl, rfl, fun s => ?_, fun s => ?_⟩
  · obtain ⟨ha, hz, hc, hs, ho, hframe⟩ := writeA_setZS_setO_spec (s := s) rfl
    have hzero : s.a + 1#8 = 0x00#8 ↔ s.a = 0xFF#8 := by bv_omega
    exact ⟨_, exec_inc s, ha, hz.trans hzero, hc, hs, by rw [ho, incOverflow, beq_iff_eq], hframe⟩
  · obtain ⟨ha, hz, hc, hs, ho, hframe⟩ := writeA_setZS_setO_spec (s := s) rfl
    have hzero : s.a - 1#8 = 0x00#8 ↔ s.a = 0x01#8 := by bv_omega
    exact ⟨_, exec_dec s, ha, hz.trans hzero, hc, hs, by rw [ho, decOverflow, beq_iff_eq], hframe⟩

/-- Settles O21: Zero and Carry are the flags of SUB read directly, Sign and Overflow by the exact signed difference. -/
theorem cmpFlagsOrderTheOperands : Obligations.CmpFlagsOrderTheOperands := by
  intro d e s
  obtain ⟨hz, hc, hs, -⟩ := setSubFlags_spec s (s.readReg d) (s.readReg e) (s.readReg d - s.readReg e)
  have hequal : s.readReg d - s.readReg e = 0x00#8 ↔ s.readReg d = s.readReg e := sub_eq_zero
  refine ⟨_, exec_cmp d e s, hz.trans hequal, hc, ?_⟩
  rw [hs, State.setSubFlags_flagO]
  exact sign_ne_subOverflow_iff _ _

end Sys2Proof.Machine
end

section
/-! SUPPORT. AND, OR, XOR and NOT (41_logical.md R100 to R103): for each its next state, and what the register and flag
writes they share say. -/

namespace Sys2Proof.Machine

/-! ## The next states -/

theorem exec_and (d e : Reg) (s : State) : exec (.and (indexOfReg d) (indexOfReg e)) s =
    .next ((s.writeReg d (s.readReg d &&& s.readReg e)).setLogicFlags (s.readReg d &&& s.readReg e)) :=
  checkRegs_index _ d e s _

theorem exec_or (d e : Reg) (s : State) : exec (.or (indexOfReg d) (indexOfReg e)) s =
    .next ((s.writeReg d (s.readReg d ||| s.readReg e)).setLogicFlags (s.readReg d ||| s.readReg e)) :=
  checkRegs_index _ d e s _

theorem exec_xor (d e : Reg) (s : State) : exec (.xor (indexOfReg d) (indexOfReg e)) s =
    .next ((s.writeReg d (s.readReg d ^^^ s.readReg e)).setLogicFlags (s.readReg d ^^^ s.readReg e)) :=
  checkRegs_index _ d e s _

/-- NOT's exclusive or with `0xFF` is the complement (R103). -/
theorem exec_not (d : Reg) (s : State) : exec (.not (indexOfReg d)) s =
    .next ((s.writeReg d (~~~(s.readReg d))).setLogicFlags (~~~(s.readReg d))) := by
  rw [← BitVec.allOnes_xor]
  exact checkReg_index _ d s _

/-! ## What the writes say -/

/-- The result, the four flags and the frame of a logical instruction. -/
theorem writeReg_setLogicFlags_spec {s t : State} {d : Reg} {r : Byte} (ht : t = (s.writeReg d r).setLogicFlags r) :
    t.readReg d = r ∧ (t.flagZ = true ↔ r = 0x00#8) ∧ t.flagS = r.getLsbD 7 ∧ t.flagC = false ∧ t.flagO = false ∧
      SameRegsBut d s t ∧ SameOutsideAlu s t := by
  subst ht
  refine ⟨?_, ?_, State.setLogicFlags_flagS _ r, State.setLogicFlags_flagC _ r, State.setLogicFlags_flagO _ r,
    frame_of_writeReg_flags s d r _⟩
  · rw [State.setLogicFlags_readReg, State.writeReg_readReg_same]
  · rw [State.setLogicFlags_flagZ, beq_iff_eq]

/-! ## The instructions -/

/-- Settles O23: each of the three writes its bitwise result and the flags of a logical instruction. -/
theorem andOrXorWriteResultAndFlags : Obligations.AndOrXorWriteResultAndFlags := by
  refine ⟨fun _ _ => ⟨rfl, rfl, rfl⟩, fun d e s i r hi => ?_, fun rd rs s h i hi => ?_⟩
  · obtain ⟨rfl, rfl⟩ | ⟨rfl, rfl⟩ | ⟨rfl, rfl⟩ := hi
    · exact ⟨_, exec_and d e s, writeReg_setLogicFlags_spec rfl⟩
    · exact ⟨_, exec_or d e s, writeReg_setLogicFlags_spec rfl⟩
    · exact ⟨_, exec_xor d e s, writeReg_setLogicFlags_spec rfl⟩
  · have hbytes := registerBytesOk_eq_false h
    have hbad : i.wellFormed = false := by
      simp only [List.mem_cons, List.not_mem_nil, or_false] at hi
      obtain rfl | rfl | rfl := hi <;> exact hbytes
    exact exec_of_not_wellFormed s hbad

/-- Settles O24: the complement is 0 exactly from 0xFF, and its sign is the opposite of the operand's. -/
theorem notWritesComplementAndFlags : Obligations.NotWritesComplementAndFlags := by
  refine ⟨fun _ => rfl, fun d s => ?_, fun r s h => exec_of_not_wellFormed s ((registerByteOk_eq_false r).2 h)⟩
  obtain ⟨hd, hz, hs, hrest⟩ := writeReg_setLogicFlags_spec (s := s) (d := d) (r := ~~~(s.readReg d)) rfl
  have hzero : ~~~(s.readReg d) = 0x00#8 ↔ s.readReg d = 0xFF#8 := BitVec.not_eq_comm
  have hsign : (~~~(s.readReg d)).getLsbD 7 = !(s.readReg d).getLsbD 7 := by simp
  exact ⟨_, exec_not d s, hd, hz.trans hzero, hs.trans hsign, hrest⟩

end Sys2Proof.Machine
end

section
/-! SUPPORT. The jumps (42_control_flow.md R110 to R122): what each condition says of the flags, what a jump does on its
condition, and what the conditions say of the operands of a CMP just before. -/

namespace Sys2Proof.Machine

/-! ## The conditions in terms of the flags (R122) -/

theorem condNotZero_iff (s : State) : condNotZero s = true ↔ s.flagZ = false := by
  rw [condNotZero, Bool.not_eq_true']

theorem condNotCarry_iff (s : State) : condNotCarry s = true ↔ s.flagC = false := by
  rw [condNotCarry, Bool.not_eq_true']

theorem condLess_iff (s : State) : condLess s = true ↔ s.flagS ≠ s.flagO := bne_iff_ne

theorem condGreater_iff (s : State) : condGreater s = true ↔ s.flagZ = false ∧ s.flagS = s.flagO := by
  rw [condGreater, Bool.and_eq_true, Bool.not_eq_true', beq_iff_eq]

theorem condAbove_iff (s : State) : condAbove s = true ↔ s.flagC = false ∧ s.flagZ = false := by
  rw [condAbove, Bool.and_eq_true, Bool.not_eq_true', Bool.not_eq_true']

/-! ## The jumps -/

/-- A jump on a condition that says `p` writes `pc` alone, and only if `p` holds (R110). -/
theorem jumpIf_eq_next {taken : Bool} {p : Prop} [Decidable p] (h : taken = true ↔ p) (target : Word) (s : State) :
    jumpIf taken target s = .next { s with pc := if p then target else s.pc } := by
  cases taken with
  | true => rw [if_pos (h.mp rfl)]; rfl
  | false => rw [if_neg fun hp => Bool.false_ne_true (h.mpr hp)]; rfl

/-- Settles O25: each conditional jump is a jump on its condition, read in terms of the flags. -/
theorem jumpsWriteOnlyPc : Obligations.JumpsWriteOnlyPc := by
  refine ⟨fun addr => ?_, fun addr s => ?_⟩
  · simp only [List.forall_mem_cons, List.not_mem_nil, false_implies, implies_true, and_true]
    exact ⟨rfl, rfl, rfl, rfl, rfl, rfl, rfl, rfl, rfl, rfl, rfl⟩
  · have hzero := jumpIf_eq_next (Iff.refl (s.flagZ = true)) addr s
    have hnotZero := jumpIf_eq_next (condNotZero_iff s) addr s
    have hcarry := jumpIf_eq_next (Iff.refl (s.flagC = true)) addr s
    exact ⟨rfl, hzero, hnotZero, hcarry, jumpIf_eq_next (condNotCarry_iff s) addr s, hzero, hnotZero,
      jumpIf_eq_next (condLess_iff s) addr s, jumpIf_eq_next (condGreater_iff s) addr s, hcarry,
      jumpIf_eq_next (condAbove_iff s) addr s⟩

/-! ## Right after CMP (R122) -/

/-- Settles O26: CMP's Zero, Carry and Sign ≠ Overflow say `=`, unsigned `<` and signed `<` (R88), and the other
conditions follow by the order being total. -/
theorem jumpsAfterCmpCompareTheOperands : Obligations.JumpsAfterCmpCompareTheOperands := by
  intro d e addr s
  obtain ⟨t, hcmp, heq, hbelow, hless⟩ := cmpFlagsOrderTheOperands d e s
  have hne : t.flagZ = false ↔ s.readReg d ≠ s.readReg e := by rw [← Bool.not_eq_true, heq]
  have hnotBelow : t.flagC = false ↔ (s.readReg e).toNat ≤ (s.readReg d).toNat := by
    rw [← Bool.not_eq_true, hbelow, Nat.not_lt]
  have hnotLess : t.flagS = t.flagO ↔ (s.readReg e).toInt ≤ (s.readReg d).toInt := by
    rw [← not_iff_not, Int.not_le]
    exact hless
  have habove : t.flagC = false ∧ t.flagZ = false ↔ (s.readReg e).toNat < (s.readReg d).toNat := by
    rw [hnotBelow, hne, ne_comm, lt_iff_le_and_ne, ne_eq, ne_eq, BitVec.toNat_inj]
  have hgreater : t.flagZ = false ∧ t.flagS = t.flagO ↔ (s.readReg e).toInt < (s.readReg d).toInt := by
    rw [hne, hnotLess, and_comm, ne_comm, lt_iff_le_and_ne, ne_eq, ne_eq, BitVec.toInt_inj]
  exact ⟨t, hcmp, jumpIf_eq_next heq addr t, jumpIf_eq_next ((condNotZero_iff t).trans hne) addr t,
    jumpIf_eq_next hbelow addr t, jumpIf_eq_next ((condNotCarry_iff t).trans hnotBelow) addr t,
    jumpIf_eq_next ((condAbove_iff t).trans habove) addr t, jumpIf_eq_next ((condLess_iff t).trans hless) addr t,
    jumpIf_eq_next ((condGreater_iff t).trans hgreater) addr t⟩

end Sys2Proof.Machine
end

section
/-! SUPPORT. PUSH, POP, CALL and RET (43_stack_and_call.md R130 to R134): what a push leaves in memory, the next state of
each instruction, and the round trips, which are compositions of the instructions' own statements. -/

namespace Sys2Proof.Machine

/-! ## What a push leaves in memory (10_state.md R28) -/

/-- The byte pushed is below the old `sp`. -/
theorem memRead_pushByte_below (s : State) (v : Byte) : (s.pushByte v).memRead (s.sp - 1#16) = v := by
  rw [State.memRead_pushByte, if_pos rfl]

theorem memRead_pushByte_ne {s : State} {k : Word} (v : Byte) (h : k ≠ s.sp - 1#16) :
    (s.pushByte v).memRead k = s.memRead k := by
  rw [State.memRead_pushByte, if_neg h]

theorem sameMemoryOutside_pushByte (s : State) (v : Byte) : SameMemoryOutside [s.sp - 1#16] s (s.pushByte v) :=
  fun _ hk => memRead_pushByte_ne v (List.ne_of_not_mem_cons hk)

/-- A word pushed as two bytes, high byte first: the low byte is at the new `sp`, the high byte right above it (20 R45),
and no other byte changes. -/
theorem pushByte_pushByte_spec {s t : State} {hi lo : Byte} (ht : t = (s.pushByte hi).pushByte lo) :
    t.sp = s.sp - 2#16 ∧ t.memRead t.sp = lo ∧ t.memRead (t.sp + 1#16) = hi ∧
      SameMemoryOutside [s.sp - 1#16, s.sp - 2#16] s t := by
  subst ht
  have hbelow : s.sp - 1#16 - 1#16 = s.sp - 2#16 := by bv_omega
  have hne : s.sp - 1#16 ≠ s.sp - 1#16 - 1#16 := by bv_omega
  simp only [State.pushByte_sp, BitVec.sub_add_cancel]
  refine ⟨hbelow, memRead_pushByte_below _ lo, ?_, fun k hk => ?_⟩
  · exact (memRead_pushByte_ne lo hne).trans (memRead_pushByte_below s hi)
  · rw [← hbelow] at hk
    obtain ⟨hhigh, hlow⟩ : k ≠ s.sp - 1#16 ∧ k ≠ s.sp - 1#16 - 1#16 := by simpa using hk
    exact (memRead_pushByte_ne lo hlow).trans (memRead_pushByte_ne hi hhigh)

/-! ## The instructions -/

theorem exec_push (r : Reg) (s : State) : exec (.push (indexOfReg r)) s = .next (s.pushByte (s.readReg r)) :=
  checkReg_index _ r s _

theorem exec_pop (r : Reg) (s : State) :
    exec (.pop (indexOfReg r)) s = .next (s.popByte.2.writeReg r (s.memRead s.sp)) :=
  checkReg_index _ r s _

theorem exec_call (addr : Word) (s : State) :
    exec (.call addr) s = .next (((s.pushByte (hiByte s.pc)).pushByte (loByte s.pc)).jump addr) := rfl

/-- The two pops of RET move `sp` by 2 (R133). -/
theorem exec_ret (s : State) : exec .ret s =
    .next { s with pc := wordOfBytes (s.memRead (s.sp + 1#16)) (s.memRead s.sp), sp := s.sp + 2#16 } := by
  have hsp : s.sp + 2#16 = s.sp + 1#16 + 1#16 := (BitVec.add_assoc s.sp 1#16 1#16).symm
  rw [hsp]
  rfl

/-- Settles O28: one push, its byte and its frame. -/
theorem pushStoresBelowTheStackPointer : Obligations.PushStoresBelowTheStackPointer :=
  ⟨fun _ => rfl, fun r s => ⟨_, exec_push r s, s.pushByte_sp _, memRead_pushByte_below s _,
    sameMemoryOutside_pushByte s _, s.pushByte_readReg _, s.pushByte_pc _, s.pushByte_flags _,
    s.pushByte_halted _, s.pushByte_implicitHaltOp _, s.pushByte_fatal _⟩⟩

/-- Settles O29: a pop moves `sp` and a register write changes that register alone; neither writes memory. -/
theorem popLoadsAtTheStackPointer : Obligations.PopLoadsAtTheStackPointer := by
  refine ⟨fun _ => rfl, fun r s => ⟨_, exec_pop r s, State.writeReg_sp _ r _, State.writeReg_readReg_same _ r _,
    fun q hq => ?_, State.writeReg_memRead _ r _, State.writeReg_pc _ r _, State.writeReg_flags _ r _,
    State.writeReg_halted _ r _, State.writeReg_implicitHaltOp _ r _, State.writeReg_fatal _ r _⟩⟩
  rw [State.writeReg_readReg_ne _ r q _ hq, State.popByte_readReg]

/-- Settles O31: the return address pushed as two bytes, and the jump, which writes `pc` alone. -/
theorem callPushesTheReturnAddress : Obligations.CallPushesTheReturnAddress := by
  refine ⟨fun _ => rfl, fun addr s => ?_⟩
  obtain ⟨hsp, hlow, hhigh, hmem⟩ :=
    pushByte_pushByte_spec (s := s) (hi := hiByte s.pc) (lo := loByte s.pc) rfl
  refine ⟨_, exec_call addr s, rfl, hsp, hlow, hhigh, hmem, fun q => ?_, rfl, rfl, rfl, rfl⟩
  rw [State.jump_readReg, State.pushByte_readReg, State.pushByte_readReg]

/-- Settles O32: the low byte is popped first, so the high byte is the one at `sp + 1`. -/
theorem retPopsTheReturnAddress : Obligations.RetPopsTheReturnAddress := ⟨rfl, exec_ret⟩

/-! ## The round trips (R131, R133, R134) -/

/-- Settles O30: POP reads at the `sp` PUSH left, which is where PUSH stored, and moves `sp` back. -/
theorem pushThenPopRoundTrips : Obligations.PushThenPopRoundTrips := by
  intro r q s
  obtain ⟨t, hpush, htsp, hstored, -, htregs, -⟩ := pushStoresBelowTheStackPointer.2 r s
  obtain ⟨u, hpop, husp, hloaded, huregs, -⟩ := popLoadsAtTheStackPointer.2 q t
  refine ⟨t, u, hpush, hpop, ?_, ?_, fun p hp => (huregs p hp).trans (htregs p)⟩
  · rw [hloaded, htsp, hstored]
  · rw [husp, htsp, BitVec.sub_add_cancel]

/-- Settles O33: RET joins the two bytes CALL split `pc` into, and adds back the 2 that CALL took from `sp`. -/
theorem callThenRetRoundTrips : Obligations.CallThenRetRoundTrips := by
  intro addr s
  obtain ⟨t, hcall, -, hsp, hlow, hhigh, -⟩ := callPushesTheReturnAddress.2 addr s
  refine ⟨t, hcall, fun u husp hulow huhigh => ⟨_, exec_ret u, ?_, ?_⟩⟩
  · calc wordOfBytes (u.memRead (u.sp + 1#16)) (u.memRead u.sp)
      _ = wordOfBytes (hiByte s.pc) (loByte s.pc) := by rw [husp, huhigh, hulow, hhigh, hlow]; rfl
      _ = s.pc := wordOfBytes_hi_lo s.pc
  · calc u.sp + 2#16
      _ = s.sp - 2#16 + 2#16 := by rw [husp, hsp]
      _ = s.sp := BitVec.sub_add_cancel s.sp 2#16

end Sys2Proof.Machine
end

section
/-! SUPPORT. LDI, LDA, LDB, STA, STB and MOV (44_data_transfer.md R140 to R145): the next state of each store and of
MOV, and what a write of one byte of memory leaves alone. -/

namespace Sys2Proof.Machine

/-! ## The next states -/

theorem exec_sta (addr : Word) (s : State) : exec (.sta addr) s = .next (s.memWrite addr s.a) := rfl

theorem exec_stb (addr : Word) (s : State) : exec (.stb addr) s = .next (s.memWrite addr s.b) := rfl

theorem exec_mov (d e : Reg) (s : State) :
    exec (.mov (indexOfReg d) (indexOfReg e)) s = .next (s.writeReg d (s.readReg e)) :=
  checkRegs_index _ d e s _

/-! ## The frame of a memory write (20_memory.md R42) -/

theorem sameMemoryOutside_memWrite (s : State) (addr : Word) (v : Byte) :
    SameMemoryOutside [addr] s (s.memWrite addr v) := fun k hk => by
  rw [State.memRead_memWrite, if_neg (List.ne_of_not_mem_cons hk)]

/-- Apart from memory, the state after a write is the state before. -/
theorem memWrite_with_mem (s : State) (addr : Word) (v : Byte) : { s.memWrite addr v with mem := s.mem } = s := rfl

/-! ## The instructions -/

/-- Settles O34: a load is the write of one register, which is the update of that field of the state. -/
theorem loadsWriteOneRegister : Obligations.LoadsWriteOneRegister :=
  ⟨fun _ => rfl, fun _ => ⟨rfl, rfl⟩, fun _ _ => rfl, fun _ _ => rfl, fun _ _ => rfl⟩

/-- Settles O35: both stores are one memory write, of A or of B. -/
theorem storesWriteOneByte : Obligations.StoresWriteOneByte := by
  refine ⟨fun _ => ⟨rfl, rfl⟩, fun addr s i v hi => ⟨s.memWrite addr v, ?_, State.memRead_memWrite_same s addr v,
    sameMemoryOutside_memWrite s addr v, memWrite_with_mem s addr v⟩⟩
  obtain ⟨rfl, rfl⟩ | ⟨rfl, rfl⟩ := hi
  · exact exec_sta addr s
  · exact exec_stb addr s

/-- Settles O36: MOV is the write of one register, with the value the other held before it. -/
theorem movCopiesTheSecondRegister : Obligations.MovCopiesTheSecondRegister := by
  refine ⟨fun _ _ => rfl, fun d e s => ?_⟩
  exact ⟨_, exec_mov d e s, s.writeReg_readReg_same d _, fun q hq => s.writeReg_readReg_ne d q _ hq,
    s.writeReg_pc d _, s.writeReg_sp d _, s.writeReg_flags d _,
    ⟨s.writeReg_halted d _, s.writeReg_implicitHaltOp d _, s.writeReg_fatal d _⟩, s.writeReg_memRead d _⟩

end Sys2Proof.Machine
end

section
/-! SUPPORT. The step of a one-byte instruction and of an undefined opcode, and the run of a core that has ended and of
one that goes on (45_system.md R150 to R152, 70_reset_and_hazards.md R183, R184). -/

namespace Sys2Proof.Machine

/-! ## The steps that fetch one byte -/

/-- A core that fetches an opcode byte without operands executes its instruction with `pc` past that byte (R60). -/
theorem step_of_opcodeForm_n {s : State} {i : Instr} (hf : s.fatal = none) (hh : s.halted = false)
    (hform : opcodeForm (s.memRead s.pc) = some (.n i)) : step s = exec i { s with pc := s.pc + 1#16 } := by
  have hdecode : decode [s.memRead s.pc, s.memRead (s.pc + 1#16), s.memRead (s.pc + 2#16)] =
      .instr i [s.memRead (s.pc + 1#16), s.memRead (s.pc + 2#16)] := by
    simp [decode, hform]
  have hlength : lengthOf i = 1 := congrArg List.length (opcodeForm_encode hform)
  rw [step_of_decode hf hh hdecode, hlength]

/-- The fetch of a byte outside the opcode map reads that byte only (R67). -/
theorem fetch_of_opcodeForm_none {s : State} (hform : opcodeForm (s.memRead s.pc) = none) :
    fetch s = (.undefinedOpcode (s.memRead s.pc), { s with pc := s.pc + 1#16 }) := by
  simp [fetch, fetchByte, hform]

/-! ## The run and its end -/

theorem endOf_halted {s : State} (hf : s.fatal = none) (hh : s.halted = true) : endOf s = some (.halted s) := by
  simp [endOf, hf, hh]

theorem endOf_running {s : State} (hf : s.fatal = none) (hh : s.halted = false) : endOf s = none := by
  simp [endOf, hf, hh]

/-- A run from a core that takes no further step is over, whatever the number of steps (R183). -/
theorem run_of_endOf {s : State} {e : RunEnd} (h : endOf s = some e) (n : Nat) : run n s = e := by
  cases n <;> simp [run, h]

theorem run_zero_running {s : State} (hf : s.fatal = none) (hh : s.halted = false) : run 0 s = .unfinished s := by
  simp [run, endOf_running hf hh]

/-- A run from a core that can step goes on from its next state (R183). -/
theorem run_succ_of_step {s t : State} (hf : s.fatal = none) (hh : s.halted = false) (h : step s = .next t) (n : Nat) :
    run (n + 1) s = run n t := by
  simp [run, endOf_running hf hh, h]

/-! ## NOP, HLT and the undefined opcodes -/

/-- NOP's step moves `pc` past the byte 00 (R150). -/
theorem step_of_nop {s : State} (hf : s.fatal = none) (hh : s.halted = false) (hop : s.memRead s.pc = 0x00#8) :
    step s = .next { s with pc := s.pc + 1#16 } :=
  step_of_opcodeForm_n hf hh (congrArg opcodeForm hop)

/-- HLT is the only instruction that changes `halted` (R33). -/
theorem eq_hlt_of_exec_halted_ne {i : Instr} {s t : State} (h : exec i s = .next t) (hne : t.halted ≠ s.halted) :
    i = .hlt := by
  cases exec_effect h with
  | hlt => rfl
  | nop | load | sta | stb | jump | noJump | push | pop | call | ret | incDec | cmp | alu => exact absurd (by simp) hne

/-- Settles O12: the fetch reads the opcode byte, and the implicit halt records it. -/
theorem undefinedOpcodeHaltsTheCore : Obligations.UndefinedOpcodeHaltsTheCore := by
  intro s hh hf hlo hhi
  rw [step_running s hf hh, fetch_of_opcodeForm_none ((opcodeForm_eq_none _).mpr ⟨hlo, hhi⟩)]
  rfl

/-- Settles O13: the byte 00 has no operands, and NOP's meaning is the state after its fetch. -/
theorem nopOnlyAdvancesPc : Obligations.NopOnlyAdvancesPc :=
  ⟨rfl, fun _ => rfl, fun _ hh hf hop => step_of_nop hf hh hop⟩

/-- Settles O14: HLT's step leaves a halted core, whose step is a no-op and whose run is over. -/
theorem hltHaltsTheCore : Obligations.HltHaltsTheCore := by
  refine ⟨rfl, fun _ => rfl, fun _ _ _ h hne => eq_hlt_of_exec_halted_ne h hne, fun s hh hf hop => ?_⟩
  exact ⟨_, step_of_opcodeForm_n hf hh (congrArg opcodeForm hop), rfl, step_halted _ hf rfl,
    run_of_endOf (endOf_halted hf rfl)⟩

/-- Settles O55, by induction on the number of steps: each is a NOP's, which leaves every cell 00. -/
theorem zeroMemoryHangs : Obligations.ZeroMemoryHangs := by
  intro s n hh hf hzero
  induction n generalizing s with
  | zero => simp [run_zero_running hf hh]
  | succ n ih =>
    have hpc : s.pc + 1#16 + BitVec.ofNat 16 n = s.pc + BitVec.ofNat 16 (n + 1) := by
      rw [BitVec.add_assoc, BitVec.ofNat_add, BitVec.add_comm 1#16]
    calc run (n + 1) s
        = run n { s with pc := s.pc + 1#16 } := run_succ_of_step hf hh (step_of_nop hf hh (hzero s.pc)) n
      _ = .unfinished { s with pc := s.pc + 1#16 + BitVec.ofNat 16 n } := ih { s with pc := s.pc + 1#16 } hh hf hzero
      _ = .unfinished { s with pc := s.pc + BitVec.ofNat 16 (n + 1) } := by rw [hpc]

end Sys2Proof.Machine
end

section
/-! SUPPORT. The core's only exception (60_exceptions.md R160 to R166): which instructions complete, the record of those
that do not, what a step of a core that is not fatal answers, and the fatal state for ever after. -/

namespace Sys2Proof.Machine

/-! ## The instructions that complete (R160) -/

theorem registerByteOk_eq_true (index : Byte) : registerByteOk index = true ↔ index.toNat ≤ 3 := by
  rw [registerByteOk, decide_eq_true_iff, Config.numRegs, Nat.lt_succ_iff]

/-- A check of a byte that names a register goes on with that register. -/
theorem exists_checkReg_eq (i : Instr) {index : Byte} (s : State) (go : Reg → Result)
    (h : registerByteOk index = true) : ∃ r, checkReg i index s go = go r := by
  obtain ⟨r, -, rfl⟩ := exists_regOfIndex index h
  exact ⟨r, checkReg_index i r s go⟩

theorem checkReg_completes {i : Instr} {index : Byte} {s : State} {go : Reg → Result}
    (h : registerByteOk index = true) (hgo : ∀ r, ∃ t, go r = .next t) : ∃ t, checkReg i index s go = .next t := by
  obtain ⟨r, hr⟩ := exists_checkReg_eq i s go h
  exact hr ▸ hgo r

theorem checkRegs_completes {i : Instr} {rd rs : Byte} {s : State} {go : Reg → Reg → Result}
    (h : (registerByteOk rd && registerByteOk rs) = true) (hgo : ∀ d e, ∃ t, go d e = .next t) :
    ∃ t, checkRegs i rd rs s go = .next t := by
  obtain ⟨hrd, hrs⟩ := Bool.and_eq_true_iff.mp h
  exact checkReg_completes hrd fun d => checkReg_completes hrs (hgo d)

/-- An instruction whose register bytes name registers answers a next state: the checks are the only exception. -/
theorem exec_of_wellFormed {i : Instr} (s : State) (h : i.wellFormed = true) : ∃ t, exec i s = .next t := by
  cases i with
  | add rd rs | sub rd rs | mul rd rs | mov rd rs | cmp rd rs | and rd rs | or rd rs | xor rd rs =>
    exact checkRegs_completes h fun _ _ => ⟨_, rfl⟩
  | not r | push r | pop r => exact checkReg_completes h fun _ => ⟨_, rfl⟩
  | nop | lda | ldb | ldi | inc | dec | sta | stb | jmp | jz | jnz | jc | jnc | je | jne | jl | jg | jb | ja | call
  | ret | hlt => exact ⟨_, rfl⟩

/-- Settles O39: every register check of a well-formed instruction passes. -/
theorem wellFormedInstructionsComplete : Obligations.WellFormedInstructionsComplete :=
  fun _ s h => exec_of_wellFormed s h

/-! ## The step (R166) -/

/-- Settles O15: a halted core and an undefined opcode byte answer a next state, and what the fetch reads as an
instruction completes or raises the exception by its register bytes. -/
theorem stepGoesOnOrRaisesFatalRegIndex : Obligations.StepGoesOnOrRaisesFatalRegIndex := by
  intro s hf
  cases hh : s.halted with
  | true => exact .inl ⟨s, step_halted s hf hh⟩
  | false =>
    rw [step_running s hf hh]
    rcases hfetch : fetch s with ⟨i | op, u⟩
    · cases hwf : i.wellFormed with
      | true => exact .inl (exec_of_wellFormed u hwf)
      | false =>
        obtain ⟨info, hfault⟩ := exec_of_not_wellFormed u hwf
        obtain ⟨rest, hdecode⟩ := decode_of_fetch hfetch
        exact .inr ⟨info, i, rest, hfault, rfl, hwf, hdecode⟩
    · exact .inl ⟨_, rfl⟩

/-! ## The record (R161, R162) -/

/-- The record of an instruction at `ipc`, in the state after its fetch. -/
theorem fatalInfoOf_eq {i : Instr} {s : State} {ipc : Word} (hpc : s.pc = ipc + BitVec.ofNat 16 (lengthOf i))
    (index : Byte) : fatalInfoOf i index s = ⟨ipc, opcodeOf i, index⟩ := by
  simp [fatalInfoOf, hpc]

/-- `rd` is checked first. -/
theorem checkRegs_bad_rd (i : Instr) {rd : Byte} (rs : Byte) (s : State) (go : Reg → Reg → Result)
    (h : registerByteOk rd = false) : checkRegs i rd rs s go = .fault (.fatalRegIndex (fatalInfoOf i rd s)) :=
  checkReg_bad i rd s _ h

theorem checkRegs_bad_rs (i : Instr) {rd rs : Byte} (s : State) (go : Reg → Reg → Result)
    (hrd : registerByteOk rd = true) (hrs : registerByteOk rs = false) :
    checkRegs i rd rs s go = .fault (.fatalRegIndex (fatalInfoOf i rs s)) := by
  obtain ⟨d, hd⟩ := exists_checkReg_eq i s (fun d => checkReg i rs s (go d)) hrd
  exact hd.trans (checkReg_bad i rs s (go d) hrs)

/-- The two-register instructions, each with its opcode byte (30_encoding.md R65). -/
def twoRegisterInstrs (rd rs : Byte) : List (Instr × Byte) :=
  [(.add rd rs, 0x06#8), (.sub rd rs, 0x07#8), (.mul rd rs, 0x08#8), (.mov rd rs, 0x0B#8), (.cmp rd rs, 0x0C#8),
    (.and rd rs, 0x18#8), (.or rd rs, 0x19#8), (.xor rd rs, 0x1A#8)]

/-- The one-register instructions, each with its opcode byte (30_encoding.md R65). -/
def oneRegisterInstrs (r : Byte) : List (Instr × Byte) := [(.not r, 0x1B#8), (.push r, 0x1C#8), (.pop r, 0x1D#8)]

/-- Each two-register instruction has three bytes and begins with the check of both operands. -/
theorem exec_of_mem_twoRegisterInstrs {rd rs : Byte} : ∀ p ∈ twoRegisterInstrs rd rs,
    opcodeOf p.1 = p.2 ∧ lengthOf p.1 = 3 ∧
      ∃ go : State → Reg → Reg → Result, ∀ s, exec p.1 s = checkRegs p.1 rd rs s (go s) := by
  simp only [twoRegisterInstrs, List.forall_mem_cons]
  refine ⟨?add, ?sub, ?mul, ?mov, ?cmp, ?and, ?or, ?xor, List.forall_mem_nil _⟩
  all_goals exact ⟨rfl, rfl, _, fun _ => rfl⟩

/-- Each one-register instruction has two bytes and begins with the check of its operand. -/
theorem exec_of_mem_oneRegisterInstrs {r : Byte} : ∀ p ∈ oneRegisterInstrs r,
    opcodeOf p.1 = p.2 ∧ lengthOf p.1 = 2 ∧
      ∃ go : State → Reg → Result, ∀ s, exec p.1 s = checkReg p.1 r s (go s) := by
  simp only [oneRegisterInstrs, List.forall_mem_cons]
  refine ⟨?not, ?push, ?pop, List.forall_mem_nil _⟩
  all_goals exact ⟨rfl, rfl, _, fun _ => rfl⟩

/-- Settles O38: the record of the first check that fails, with `ipc` and the opcode byte from the instruction's length
and encoding. -/
theorem fatalRecordNamesTheFirstBadByte : Obligations.FatalRecordNamesTheFirstBadByte := by
  refine fun ipc rd rs s => ⟨fun hpc => ⟨fun hrd p hp => ?rd, fun hrd hrs p hp => ?rs⟩, fun hpc hr p hp => ?r⟩
  case rd =>
    obtain ⟨hop, hlength, go, hexec⟩ := exec_of_mem_twoRegisterInstrs p hp
    rw [hexec, checkRegs_bad_rd _ _ _ _ ((registerByteOk_eq_false rd).2 hrd), fatalInfoOf_eq (hlength ▸ hpc), hop]
  case rs =>
    obtain ⟨hop, hlength, go, hexec⟩ := exec_of_mem_twoRegisterInstrs p hp
    rw [hexec, checkRegs_bad_rs _ _ _ ((registerByteOk_eq_true rd).2 hrd) ((registerByteOk_eq_false rs).2 hrs),
      fatalInfoOf_eq (hlength ▸ hpc), hop]
  case r =>
    obtain ⟨hop, hlength, go, hexec⟩ := exec_of_mem_oneRegisterInstrs p hp
    rw [hexec, checkReg_bad _ _ _ _ ((registerByteOk_eq_false rd).2 hr), fatalInfoOf_eq (hlength ▸ hpc), hop]

/-! ## The fatal state (R163, 10_state.md R34) -/

/-- The core was not fatal before a step that raises the exception: a fatal core's step answers the other fault. -/
theorem fatal_eq_none_of_step_fatalRegIndex {s : State} {info : FatalInfo}
    (h : step s = .fault (.fatalRegIndex info)) : s.fatal = none := by
  cases hf : s.fatal with
  | none => rfl
  | some held =>
    rw [step_fatal s held hf] at h
    cases h

/-- The turn in which the exception is raised leaves the core fatal with its record. -/
theorem hostTurn_of_step_fatalRegIndex {s : State} {info : FatalInfo} (h : step s = .fault (.fatalRegIndex info)) :
    hostTurn s = (fetch s).2.enterFatal info := by
  simp [hostTurn, fatal_eq_none_of_step_fatalRegIndex h, h]

/-- No number of turns changes a fatal core. -/
theorem hostTurns_of_fatal {s : State} {info : FatalInfo} (h : s.fatal = some info) (n : Nat) : hostTurns n s = s := by
  have hturn : hostTurn s = s := by simp [hostTurn, h]
  induction n with
  | zero => rfl
  | succ n ih => rw [hostTurns, hturn, ih]

/-- Settles O40: the first turn enters the fatal state, which the other turns keep and which has no step. -/
theorem fatalStateIsTerminal : Obligations.FatalStateIsTerminal := by
  intro s info n h
  have hturns : hostTurns (n + 1) s = (fetch s).2.enterFatal info := by
    rw [hostTurns, hostTurn_of_step_fatalRegIndex h, hostTurns_of_fatal rfl]
  rw [hturns]
  exact ⟨rfl, step_fatal _ info rfl⟩

end Sys2Proof.Machine
end

section
/-! SUPPORT. Reset and the loading of an image, the end of a run under more steps, and the hang of a core whose step
leaves it as it is (70_reset_and_hazards.md R180, R181, R183, R184, R188). -/

namespace Sys2Proof.Machine

/-! ## Reset and the loading of an image (R180, R181) -/

theorem loadImage_of_fits {image : List Byte} (h : image.length ≤ Config.memSize) :
    loadImage image = .next { State.reset with mem := imageCells 0 image } :=
  if_pos h

theorem loadImage_of_too_long {image : List Byte} (h : Config.memSize < image.length) :
    loadImage image = .refused (.imageTooLong image.length) :=
  if_neg (Nat.not_le.mpr h)

/-- An image that fits gives canonical memory. -/
theorem imageCells_wf {image : List Byte} (h : image.length ≤ Config.memSize) :
    Memory.wf (imageCells 0 image) = true :=
  imageCells_wfFrom image 0 (by rwa [Nat.zero_add])

/-- Settles O47: no cell is written at reset, FLAGS is 0, and there is no halt record. -/
theorem resetMeetsTheInvariant : Obligations.ResetMeetsTheInvariant :=
  State.reset.inv_iff.mpr ⟨rfl, rfl, rfl⟩

/-- Settles O2: the loaded state is reset with the cells of the image as memory. -/
theorem loadPlacesTheImage : Obligations.LoadPlacesTheImage :=
  fun image => ⟨fun hfits => ⟨_, loadImage_of_fits hfits, fun k => imageCells_read image 0 k.toNat k.toNat.zero_le,
    imageCells_wf hfits, rfl⟩, loadImage_of_too_long⟩

/-! ## A run that has ended (R183, R184) -/

/-- A run from a core that has not ended goes on from its next state. -/
theorem run_succ_of_endOf_none {s t : State} (hend : endOf s = none) (hstep : step s = .next t) (n : Nat) :
    run (n + 1) s = run n t := by
  simp [run, hend, hstep]

/-- Two runs of at least one step are equal when they go on alike from the next state. -/
theorem run_succ_congr {s : State} {m n : Nat}
    (h : endOf s = none → ∀ t, step s = .next t → run m t = run n t) : run (m + 1) s = run (n + 1) s := by
  cases hend : endOf s with
  | some e => rw [run_of_endOf hend, run_of_endOf hend]
  | none =>
    cases hstep : step s with
    | next t => simp only [run_succ_of_endOf_none hend hstep, h hend t hstep]
    | fault r => cases r <;> simp [run, hend, hstep]
    | refused r => simp [run, hend, hstep]

/-- A run that is not unfinished ends so for any larger number of steps, by induction on the number it took. -/
theorem run_add_of_ended {n : Nat} {s : State} (hended : ∀ u, run n s ≠ .unfinished u) (k : Nat) :
    run (n + k) s = run n s := by
  induction n generalizing s with
  | zero =>
    cases hend : endOf s with
    | some e => rw [run_of_endOf hend, run_of_endOf hend]
    | none => exact absurd (by simp [run, hend]) (hended s)
  | succ n ih =>
    rw [Nat.succ_add]
    refine run_succ_congr fun hend t hstep => ih fun u hu => hended u ?_
    exact (run_succ_of_endOf_none hend hstep n).trans hu

/-- Settles O53: neither end is an unfinished run. -/
theorem endedRunStaysEnded : Obligations.EndedRunStaysEnded :=
  fun _ k _ _ _ =>
    ⟨fun h => (run_add_of_ended (h ▸ nofun) k).trans h, fun h => (run_add_of_ended (h ▸ nofun) k).trans h⟩

/-! ## A jump to its own address (R188) -/

/-- A core whose step leaves it as it is never ends its run. -/
theorem hangs_of_step_eq_self {s : State} (hf : s.fatal = none) (hh : s.halted = false) (h : step s = .next s) :
    Hangs s := by
  refine fun n => ⟨s, ?_⟩
  induction n with
  | zero => exact run_zero_running hf hh
  | succ n ih => exact (run_succ_of_step hf hh h n).trans ih

/-- JMP writes its target to `pc` and nothing else (42_control_flow.md R111). -/
theorem exec_jmp (addr : Word) (s : State) : exec (.jmp addr) s = .next { s with pc := addr } := rfl

/-- Settles O54: the step puts `pc` back to the jump's own address, so it leaves the core as it is. -/
theorem jumpToItselfHangs : Obligations.JumpToItselfHangs :=
  fun s _ hh hf hdecode => hangs_of_step_eq_self hf hh ((step_of_decode hf hh hdecode).trans (exec_jmp s.pc _))

end Sys2Proof.Machine
end
